-- ==== Sys2Proof/Word.lean ====
section
/-! DEFINITION. The widths of the hardware (spec 00_scope R6): data bytes and registers of 8 bits, instruction
words, pc, I and stack entries of 16 bits, register and row-count nibbles of 4 bits, addresses in a word of 12 bits. -/

namespace Sys2Proof

/-- A nibble of an instruction word (R91): a register index or a row count. -/
abbrev Nibble := BitVec 4

/-- `XLEN`: a general register, a memory byte, a timer (R6). -/
abbrev Byte := BitVec 8

/-- The address field NNN of an instruction word (R91). -/
abbrev Addr12 := BitVec 12

/-- An instruction word, the pc, the index register or a stack entry (R6). -/
abbrev Word := BitVec 16

end Sys2Proof
end

