-- ==== Sys2Proof/Config.lean ====
section
/-! DEFINITION. The open parameters of the hardware (spec 00_scope R7): FONT and JP_V0_IMPLEMENTED, which the machine takes
as arguments, with their defaults, and the random input. -/

namespace Sys2Proof

/-- The 80 bytes of a font: 16 glyphs of 5 bytes, glyph g at 5*g, top row first (10_state R27). -/
abbrev Font := Vector Byte 80

/-- The parameters that are fixed for one machine (R7). Every step takes them as an argument, in the state's `params`, and
none changes them (log 2, 4, 30). The two that are the host's, tick cadence and instruction rate, are the order of its
commands (log 18, 22). -/
structure Params where
  /-- `FONT`: the contents of the font region after a reset (R27, D12). -/
  font : Font
  /-- `JP_V0_IMPLEMENTED`: whether `Bnnn` is the 35th instruction or an illegal word (40_control_flow R130, D2). -/
  jpV0Implemented : Bool
  deriving DecidableEq, Repr

/-- The default of FONT, the table of R27, as a list of bytes. -/
def Config.fontBytes : List Byte :=
  [0xF0, 0x90, 0x90, 0x90, 0xF0,
   0x20, 0x60, 0x20, 0x20, 0x70,
   0xF0, 0x10, 0xF0, 0x80, 0xF0,
   0xF0, 0x10, 0xF0, 0x10, 0xF0,
   0x90, 0x90, 0xF0, 0x10, 0x10,
   0xF0, 0x80, 0xF0, 0x10, 0xF0,
   0xF0, 0x80, 0xF0, 0x90, 0xF0,
   0xF0, 0x10, 0x20, 0x40, 0x40] ++
  [0xF0, 0x90, 0xF0, 0x90, 0xF0,
   0xF0, 0x90, 0xF0, 0x10, 0xF0,
   0xF0, 0x90, 0xF0, 0x90, 0x90,
   0xE0, 0x90, 0xE0, 0x90, 0xE0,
   0xF0, 0x80, 0x80, 0x80, 0xF0,
   0xE0, 0x90, 0x90, 0x90, 0xE0,
   0xF0, 0x80, 0xF0, 0x80, 0xF0,
   0xF0, 0x80, 0xF0, 0x80, 0x80]

/-- The default of FONT (R7, R27). UNVERIFIED: the spec states the table and marks it as general knowledge (D12; log 4).
Safe: no statement rests on a byte of it. -/
def Config.font : Font := ⟨Config.fontBytes.toArray, rfl⟩

/-- `rnd` (00_scope R7, 42_addressing R161): the random bytes, a free draw under no law. It has no body: nothing can be
proved about a byte of it. DESIGN CHOICE: the k-th byte drawn is `Config.rnd k` (log 5). Safe. -/
opaque Config.rnd : Nat → Byte

/-- The default of JP_V0_IMPLEMENTED (R7, R130; D2; log 2). -/
def Config.jpV0Implemented : Bool := true

/-- The parameters at their defaults (R7): those of `State.reset`. -/
def Config.params : Params := { font := Config.font, jpV0Implemented := Config.jpV0Implemented }

end Sys2Proof
end

