-- ==== Sys2Proof/Syntax.lean ====
section
/-! DEFINITION. The 35 instructions (spec 30_encoding R95), one constructor per row of the opcode map, in the map's
order. Register fields X and Y are nibbles and all 16 values are legal (R93). The shifts carry no Y: it is decoded and
not used (R97). -/

namespace Sys2Proof

/-- The 35 instructions of rule R95. -/
inductive Instr where
  /-- `0000` NOP, R121. -/
  | nop
  /-- `00E0` CLS, R122. -/
  | cls
  /-- `00EE` RET, R123. -/
  | ret
  /-- `1nnn` JP nnn, R124. -/
  | jp (nnn : Addr12)
  /-- `2nnn` CALL nnn, R125. -/
  | call (nnn : Addr12)
  /-- `3xkk` SE Vx, kk, R126. -/
  | seImm (x : Nibble) (kk : Byte)
  /-- `4xkk` SNE Vx, kk, R127. -/
  | sneImm (x : Nibble) (kk : Byte)
  /-- `5xy0` SE Vx, Vy, R128. -/
  | seReg (x y : Nibble)
  /-- `9xy0` SNE Vx, Vy, R129. -/
  | sneReg (x y : Nibble)
  /-- `Bnnn` JP V0, nnn, R130; present when JP_V0_IMPLEMENTED. -/
  | jpV0 (nnn : Addr12)
  /-- `6xkk` LD Vx, kk, R142. -/
  | ldImm (x : Nibble) (kk : Byte)
  /-- `7xkk` ADD Vx, kk, R143. -/
  | addImm (x : Nibble) (kk : Byte)
  /-- `8xy0` LD Vx, Vy, R144. -/
  | ldReg (x y : Nibble)
  /-- `8xy1` OR Vx, Vy, R145. -/
  | orReg (x y : Nibble)
  /-- `8xy2` AND Vx, Vy, R146. -/
  | andReg (x y : Nibble)
  /-- `8xy3` XOR Vx, Vy, R147. -/
  | xorReg (x y : Nibble)
  /-- `8xy4` ADD Vx, Vy, R148. -/
  | addReg (x y : Nibble)
  /-- `8xy5` SUB Vx, Vy, R149. -/
  | subReg (x y : Nibble)
  /-- `8xy7` SUBN Vx, Vy, R150. -/
  | subnReg (x y : Nibble)
  /-- `8xy6` SHR Vx, R151. -/
  | shr (x : Nibble)
  /-- `8xyE` SHL Vx, R152. -/
  | shl (x : Nibble)
  /-- `Annn` LD I, nnn, R160. -/
  | ldI (nnn : Addr12)
  /-- `Cxkk` RND Vx, kk, R161. -/
  | rnd (x : Nibble) (kk : Byte)
  /-- `Fx29` LD F, Vx, R162. -/
  | ldF (x : Nibble)
  /-- `Dxyn` DRW Vx, Vy, n, R171. -/
  | drw (x y n : Nibble)
  /-- `Ex9E` SKP Vx, R180. -/
  | skp (x : Nibble)
  /-- `ExA1` SKNP Vx, R181. -/
  | sknp (x : Nibble)
  /-- `Fx0A` LD Vx, K, R182. -/
  | ldKey (x : Nibble)
  /-- `Fx07` LD Vx, DT, R190. -/
  | ldFromDt (x : Nibble)
  /-- `Fx15` LD DT, Vx, R191. -/
  | ldDt (x : Nibble)
  /-- `Fx18` LD ST, Vx, R192. -/
  | ldSt (x : Nibble)
  /-- `Fx1E` ADD I, Vx, R200. -/
  | addI (x : Nibble)
  /-- `Fx33` LD B, Vx, R201. -/
  | ldB (x : Nibble)
  /-- `Fx55` LD [I], Vx, R202. -/
  | storeRegs (x : Nibble)
  /-- `Fx65` LD Vx, [I], R203. -/
  | loadRegs (x : Nibble)
  deriving DecidableEq, Repr

end Sys2Proof
end

