-- ==== Sys2Proof/WellFormed.lean ====
section
/-! DEFINITION. Which instruction terms exist on the hardware. The fields' types already hold every width (R91, R93),
so one check is left: JP V0, nnn is an instruction only where the parameter JP_V0_IMPLEMENTED is true (R130). -/

namespace Sys2Proof

/-- `i` is an instruction of the hardware whose parameter JP_V0_IMPLEMENTED is `jpV0` (R95, R130). -/
def Instr.wellFormed (jpV0 : Bool) : Instr → Bool
  | .nop => true
  | .cls => true
  | .ret => true
  | .jp _ => true
  | .call _ => true
  | .seImm _ _ => true
  | .sneImm _ _ => true
  | .seReg _ _ => true
  | .sneReg _ _ => true
  | .jpV0 _ => jpV0
  | .ldImm _ _ => true
  | .addImm _ _ => true
  | .ldReg _ _ => true
  | .orReg _ _ => true
  | .andReg _ _ => true
  | .xorReg _ _ => true
  | .addReg _ _ => true
  | .subReg _ _ => true
  | .subnReg _ _ => true
  | .shr _ => true
  | .shl _ => true
  | .ldI _ => true
  | .rnd _ _ => true
  | .ldF _ => true
  | .drw _ _ _ => true
  | .skp _ => true
  | .sknp _ => true
  | .ldKey _ => true
  | .ldFromDt _ => true
  | .ldDt _ => true
  | .ldSt _ => true
  | .addI _ => true
  | .ldB _ => true
  | .storeRegs _ => true
  | .loadRegs _ => true

end Sys2Proof
end

