-- ==== Sys2Proof/Decode.lean ====
section
/-! DEFINITION. The decoder and the encoder (spec 30_encoding R90 to R99). Decoding goes by the document's own 4-tuple
of nibbles (R94); the mask and match columns of the opcode map (R95) stand below as `Instr.rowMask` and
`Instr.rowMatch`. UNVERIFIED: the opcode numbers but for `0000`, `5xy0` and `9xy0`, which the spec states in R95 and marks as
general knowledge (D1; log 1). -/

namespace Sys2Proof

/-- Why bytes are no instruction. -/
inductive DecodeError where
  /-- The word matches no row of R95 (R96); it raises ILLEGAL_OPCODE. -/
  | illegalOpcode (w : Word)
  /-- Fewer than two bytes were given; Fetch16 never does that (R68). -/
  | truncated
  deriving DecidableEq, Repr

/-- `OP` = w[15:12] (R91). -/
def opField (w : Word) : Nibble := w.extractLsb' 12 4
/-- `X` = w[11:8] (R91). -/
def xField (w : Word) : Nibble := w.extractLsb' 8 4
/-- `Y` = w[7:4] (R91). -/
def yField (w : Word) : Nibble := w.extractLsb' 4 4
/-- `N` = w[3:0] (R91). -/
def nField (w : Word) : Nibble := w.extractLsb' 0 4
/-- `NN` = w[7:0] (R91). -/
def nnField (w : Word) : Byte := w.extractLsb' 0 8
/-- `NNN` = w[11:0] (R91). -/
def nnnField (w : Word) : Addr12 := w.extractLsb' 0 12

/-- The word of four nibbles OP, X, Y, N (formats XY and XYN of R92). -/
def packXYN (op x y n : Nibble) : Word := op ++ x ++ y ++ n
/-- The word of OP, X and NN (formats XNN and X of R92). -/
def packXNN (op x : Nibble) (nn : Byte) : Word := op ++ x ++ nn
/-- The word of OP and NNN (formats NNN and FIXED of R92). -/
def packNNN (op : Nibble) (nnn : Addr12) : Word := op ++ nnn

/-- decode(w) (R94, R95) on hardware whose JP_V0_IMPLEMENTED is `jpV0`: the instruction of the one row that matches,
or `illegalOpcode` with the word (R96). Class 5 is the equal skip and class 9 the not-equal one (C2, D3; log 3). -/
def decodeWord (jpV0 : Bool) (w : Word) : Except DecodeError Instr :=
  match opField w with
  | 0x0 =>
    match xField w, yField w, nField w with
    | 0x0, 0x0, 0x0 => .ok .nop
    | 0x0, 0xE, 0x0 => .ok .cls
    | 0x0, 0xE, 0xE => .ok .ret
    | _, _, _ => .error (.illegalOpcode w)
  | 0x1 => .ok (.jp (nnnField w))
  | 0x2 => .ok (.call (nnnField w))
  | 0x3 => .ok (.seImm (xField w) (nnField w))
  | 0x4 => .ok (.sneImm (xField w) (nnField w))
  | 0x5 =>
    match nField w with
    | 0x0 => .ok (.seReg (xField w) (yField w))
    | _ => .error (.illegalOpcode w)
  | 0x6 => .ok (.ldImm (xField w) (nnField w))
  | 0x7 => .ok (.addImm (xField w) (nnField w))
  | 0x8 =>
    match nField w with
    | 0x0 => .ok (.ldReg (xField w) (yField w))
    | 0x1 => .ok (.orReg (xField w) (yField w))
    | 0x2 => .ok (.andReg (xField w) (yField w))
    | 0x3 => .ok (.xorReg (xField w) (yField w))
    | 0x4 => .ok (.addReg (xField w) (yField w))
    | 0x5 => .ok (.subReg (xField w) (yField w))
    | 0x6 => .ok (.shr (xField w))
    | 0x7 => .ok (.subnReg (xField w) (yField w))
    | 0xE => .ok (.shl (xField w))
    | _ => .error (.illegalOpcode w)
  | 0x9 =>
    match nField w with
    | 0x0 => .ok (.sneReg (xField w) (yField w))
    | _ => .error (.illegalOpcode w)
  | 0xA => .ok (.ldI (nnnField w))
  | 0xB => if jpV0 then .ok (.jpV0 (nnnField w)) else .error (.illegalOpcode w)
  | 0xC => .ok (.rnd (xField w) (nnField w))
  | 0xD => .ok (.drw (xField w) (yField w) (nField w))
  | 0xE =>
    match yField w, nField w with
    | 0x9, 0xE => .ok (.skp (xField w))
    | 0xA, 0x1 => .ok (.sknp (xField w))
    | _, _ => .error (.illegalOpcode w)
  | 0xF =>
    match yField w, nField w with
    | 0x0, 0x7 => .ok (.ldFromDt (xField w))
    | 0x0, 0xA => .ok (.ldKey (xField w))
    | 0x1, 0x5 => .ok (.ldDt (xField w))
    | 0x1, 0x8 => .ok (.ldSt (xField w))
    | 0x1, 0xE => .ok (.addI (xField w))
    | 0x2, 0x9 => .ok (.ldF (xField w))
    | 0x3, 0x3 => .ok (.ldB (xField w))
    | 0x5, 0x5 => .ok (.storeRegs (xField w))
    | 0x6, 0x5 => .ok (.loadRegs (xField w))
    | _, _ => .error (.illegalOpcode w)
  | _ => .error (.illegalOpcode w)

/-- Big-endian combine of the two bytes of an instruction, the lower address first (20_memory R62). -/
def wordOfBytes (b0 b1 : Byte) : Word := b0 ++ b1

/-- The byte of an instruction at its lower address: bits 15 to 8 (R62). -/
def highByte (w : Word) : Byte := w.extractLsb' 8 8
/-- The byte of an instruction at its higher address: bits 7 to 0 (R62). -/
def lowByte (w : Word) : Byte := w.extractLsb' 0 8

/-- Decode the instruction at the front of `bytes` and give back the rest; total on any bytes. Every instruction is two
bytes long (R90, R99; log 29). `jpV0` is the parameter JP_V0_IMPLEMENTED (R130). -/
def decode (jpV0 : Bool) : List Byte → Except DecodeError (Instr × List Byte)
  | b0 :: b1 :: rest =>
    match decodeWord jpV0 (wordOfBytes b0 b1) with
    | .ok i => .ok (i, rest)
    | .error e => .error e
  | [_] => .error .truncated
  | [] => .error .truncated

/-- The instruction the decoder reads from a word given as the opcode table numbers its bits; bits above `nbits` are 0.
The word is laid out in memory order, high byte first (R62); JP_V0_IMPLEMENTED is at its default, as in State.reset. -/
def decodeTableWord (nbits w : Nat) : Option Instr :=
  let word : Word := BitVec.ofNat 16 (w % 2 ^ nbits)
  match decode Config.jpV0Implemented [highByte word, lowByte word] with
  | .ok (i, _) => some i
  | .error _ => none

/-- The word of an instruction, from the encoding column of R95; the unused Y of a shift is written 0 (R97). -/
def encode : Instr → Word
  | .nop => packNNN 0x0 0x000
  | .cls => packNNN 0x0 0x0E0
  | .ret => packNNN 0x0 0x0EE
  | .jp nnn => packNNN 0x1 nnn
  | .call nnn => packNNN 0x2 nnn
  | .seImm x kk => packXNN 0x3 x kk
  | .sneImm x kk => packXNN 0x4 x kk
  | .seReg x y => packXYN 0x5 x y 0x0
  | .sneReg x y => packXYN 0x9 x y 0x0
  | .jpV0 nnn => packNNN 0xB nnn
  | .ldImm x kk => packXNN 0x6 x kk
  | .addImm x kk => packXNN 0x7 x kk
  | .ldReg x y => packXYN 0x8 x y 0x0
  | .orReg x y => packXYN 0x8 x y 0x1
  | .andReg x y => packXYN 0x8 x y 0x2
  | .xorReg x y => packXYN 0x8 x y 0x3
  | .addReg x y => packXYN 0x8 x y 0x4
  | .subReg x y => packXYN 0x8 x y 0x5
  | .subnReg x y => packXYN 0x8 x y 0x7
  | .shr x => packXYN 0x8 x 0x0 0x6
  | .shl x => packXYN 0x8 x 0x0 0xE
  | .ldI nnn => packNNN 0xA nnn
  | .rnd x kk => packXNN 0xC x kk
  | .ldF x => packXNN 0xF x 0x29
  | .drw x y n => packXYN 0xD x y n
  | .skp x => packXNN 0xE x 0x9E
  | .sknp x => packXNN 0xE x 0xA1
  | .ldKey x => packXNN 0xF x 0x0A
  | .ldFromDt x => packXNN 0xF x 0x07
  | .ldDt x => packXNN 0xF x 0x15
  | .ldSt x => packXNN 0xF x 0x18
  | .addI x => packXNN 0xF x 0x1E
  | .ldB x => packXNN 0xF x 0x33
  | .storeRegs x => packXNN 0xF x 0x55
  | .loadRegs x => packXNN 0xF x 0x65

/-- The mask column of an instruction's row (R95). -/
def Instr.rowMask : Instr → Word
  | .nop => 0xFFFF
  | .cls => 0xFFFF
  | .ret => 0xFFFF
  | .jp _ => 0xF000
  | .call _ => 0xF000
  | .seImm _ _ => 0xF000
  | .sneImm _ _ => 0xF000
  | .seReg _ _ => 0xF00F
  | .sneReg _ _ => 0xF00F
  | .jpV0 _ => 0xF000
  | .ldImm _ _ => 0xF000
  | .addImm _ _ => 0xF000
  | .ldReg _ _ => 0xF00F
  | .orReg _ _ => 0xF00F
  | .andReg _ _ => 0xF00F
  | .xorReg _ _ => 0xF00F
  | .addReg _ _ => 0xF00F
  | .subReg _ _ => 0xF00F
  | .subnReg _ _ => 0xF00F
  | .shr _ => 0xF00F
  | .shl _ => 0xF00F
  | .ldI _ => 0xF000
  | .rnd _ _ => 0xF000
  | .ldF _ => 0xF0FF
  | .drw _ _ _ => 0xF000
  | .skp _ => 0xF0FF
  | .sknp _ => 0xF0FF
  | .ldKey _ => 0xF0FF
  | .ldFromDt _ => 0xF0FF
  | .ldDt _ => 0xF0FF
  | .ldSt _ => 0xF0FF
  | .addI _ => 0xF0FF
  | .ldB _ => 0xF0FF
  | .storeRegs _ => 0xF0FF
  | .loadRegs _ => 0xF0FF

/-- The match column of an instruction's row (R95). -/
def Instr.rowMatch : Instr → Word
  | .nop => 0x0000
  | .cls => 0x00E0
  | .ret => 0x00EE
  | .jp _ => 0x1000
  | .call _ => 0x2000
  | .seImm _ _ => 0x3000
  | .sneImm _ _ => 0x4000
  | .seReg _ _ => 0x5000
  | .sneReg _ _ => 0x9000
  | .jpV0 _ => 0xB000
  | .ldImm _ _ => 0x6000
  | .addImm _ _ => 0x7000
  | .ldReg _ _ => 0x8000
  | .orReg _ _ => 0x8001
  | .andReg _ _ => 0x8002
  | .xorReg _ _ => 0x8003
  | .addReg _ _ => 0x8004
  | .subReg _ _ => 0x8005
  | .subnReg _ _ => 0x8007
  | .shr _ => 0x8006
  | .shl _ => 0x800E
  | .ldI _ => 0xA000
  | .rnd _ _ => 0xC000
  | .ldF _ => 0xF029
  | .drw _ _ _ => 0xD000
  | .skp _ => 0xE09E
  | .sknp _ => 0xE0A1
  | .ldKey _ => 0xF00A
  | .ldFromDt _ => 0xF007
  | .ldDt _ => 0xF015
  | .ldSt _ => 0xF018
  | .addI _ => 0xF01E
  | .ldB _ => 0xF033
  | .storeRegs _ => 0xF055
  | .loadRegs _ => 0xF065

/-- One representative of each row of the opcode map, in the map's order (R95). -/
def opcodeRows : List Instr :=
  [.nop, .cls, .ret, .jp 0, .call 0, .seImm 0 0, .sneImm 0 0, .seReg 0 0, .sneReg 0 0, .jpV0 0] ++
  [.ldImm 0 0, .addImm 0 0, .ldReg 0 0, .orReg 0 0, .andReg 0 0, .xorReg 0 0, .addReg 0 0, .subReg 0 0,
   .subnReg 0 0, .shr 0, .shl 0] ++
  [.ldI 0, .rnd 0 0, .ldF 0, .drw 0 0 0, .skp 0, .sknp 0, .ldKey 0, .ldFromDt 0, .ldDt 0, .ldSt 0] ++
  [.addI 0, .ldB 0, .storeRegs 0, .loadRegs 0]

end Sys2Proof
end

