-- ==== Sys2Proof/Machine/State.lean ====
section
/-! DEFINITION. The state of the Machine (spec 10_state R20 to R34) as plain data, what stands outside it, the reasons a
step can stop, and the state after reset (R34). -/

namespace Sys2Proof.Machine

/-- RUNNING or FAULTED (R32). -/
inductive Status where
  | running
  | faulted
  deriving DecidableEq, Repr

/-- The fault causes (60_exceptions R221); `FaultCause.code` gives their numbers. -/
inductive FaultCause where
  /-- Code 0: no fault. -/
  | none
  /-- Code 1: an address above 0xFFF would be accessed (R222). -/
  | memOob
  /-- Code 2: the word matches no row of the opcode map (R223). -/
  | illegalOpcode
  /-- Code 3: CALL with sp = 16 (R224). -/
  | stackOverflow
  /-- Code 4: RET with sp = 0 (R225). -/
  | stackUnderflow
  /-- Code 5: SKP or SKNP with V[X] > 15 (R227). -/
  | keyIndexRange
  deriving DecidableEq, Repr

/-- A fault raised inside a STEP: its cause and its 16-bit info (R221). -/
structure Trap where
  cause : FaultCause
  info : Word
  deriving DecidableEq, Repr

/-- The host's commands (10_state R35, R36). -/
inductive Command where
  /-- STEP: one instruction (R37). Its random input is `Config.rnd` (log 5). -/
  | step
  /-- TICK: one timer countdown (60_exceptions R241). -/
  | tick
  /-- SET_KEY(index, pressed) (R243); the index is a 4-bit input (D21). -/
  | setKey (index : Nibble) (pressed : Bool)
  /-- LOAD(image) (70_reset_and_hazards R263). -/
  | load (image : List Byte)
  /-- RESET (R260). -/
  | reset
  /-- The display readout (10_state R36). -/
  | readout
  deriving DecidableEq, Repr

/-- What a command answers to the host. -/
inductive Reply where
  /-- No command has answered yet. -/
  | none
  /-- TICK: the tone signal (R241). -/
  | tone (active : Bool)
  /-- LOAD: the image fitted and was written (R263). -/
  | loaded
  /-- LOAD: the image does not fit and nothing was written (R263, D16). -/
  | loadRefused
  /-- The readout: disp[0..2047], row-major (R36). -/
  | pixels (disp : List Bool)
  deriving DecidableEq, Repr

/-- What stands outside the Machine: THE MODEL'S OWN record of the host, no state of the spec. DESIGN CHOICE
(log 5, 16, 18). -/
structure Outside where
  /-- The commands the host has issued and the Machine has not yet carried out, oldest first. When it is empty the host
  issues STEP. -/
  pending : List Command
  /-- The answer of the latest TICK, LOAD or readout. -/
  reply : Reply
  /-- How many random bytes have been drawn; the next one is `Config.rnd draws`. -/
  draws : Nat
  deriving DecidableEq, Repr

/-- The display buffer: 32 rows of 64 pixels; pixel (x, y) is bit x of row y, the spec's disp[x + 64*y] (R28; log 24). -/
abbrev Display := Vector (BitVec 64) 32

/-- Memory as (address, byte) pairs, addresses rising, no pair equal to what an unlisted address reads as. -/
abbrev Memory := List Host.Cell

/-- The aggregate the Machine holds (R20), and beside it the model's own record of the host. -/
structure State where
  /-- The program counter (R23): between steps, the address of the next instruction to fetch. -/
  pc : Word
  /-- V[0] to V[15]; V[15] is VF, the flag register (R21, R22). -/
  v : Vector Byte 16
  /-- The index register I (R25). -/
  idx : Word
  /-- The stack pointer, 0 to 16, the number of entries in use (R29). -/
  sp : Fin 17
  /-- The 16 return addresses (R29). -/
  stack : Vector Word 16
  /-- The delay timer DT (R31). -/
  dt : Byte
  /-- The sound timer ST (R31). -/
  st : Byte
  /-- The key states; true means pressed (R30). -/
  keys : Vector Bool 16
  /-- The display (R28). -/
  disp : Display
  /-- The 4096-byte memory (R26, 20_memory R60). -/
  mem : Memory
  /-- The fault latch: RUNNING or FAULTED (R32). -/
  status : Status
  /-- The fault latch: fault_cause (R32). -/
  cause : FaultCause
  /-- The fault latch: fault_info (R32). -/
  info : Word
  /-- The parameters the machine was built with (00_scope R7). They are no state of the spec and no step changes them; they
  stand here so that every step takes them as an argument (log 30). -/
  params : Params
  /-- The model's own record of the host. -/
  outside : Outside
  deriving DecidableEq, Repr

/-- Why a step stops with a fault: never. Every fault of the spec enters the latch of the state and the machine goes on
taking commands (R226, R232), so no step ends here and the type is empty. -/
inductive Fault
  deriving DecidableEq, Repr

/-- Why a step is refused. -/
inductive Refusal where
  /-- The instruction has no meaning in this model yet; raised by exec's arms alone. Safe: the model stops. -/
  | notModelled (mnemonic : String)
  deriving DecidableEq, Repr

/-- The record of the host before any command. -/
def Outside.initial : Outside := { pending := [], reply := .none, draws := 0 }

/-- The machine with parameters `p` right after RESET and after power-on (R34, R261). Memory lists nothing: an unlisted
address reads as its reset contents (`Memory.resetByte`). -/
def State.resetWith (p : Params) : State :=
  { pc := 0x0200
    v := Vector.replicate 16 0
    idx := 0
    sp := 0
    stack := Vector.replicate 16 0
    dt := 0
    st := 0
    keys := Vector.replicate 16 false
    disp := Vector.replicate 32 0
    mem := []
    status := .running
    cause := .none
    info := 0
    params := p
    outside := Outside.initial }

/-- The machine right after reset, its parameters at their defaults (R7; log 2, 4). -/
def State.reset : State := State.resetWith Config.params

end Sys2Proof.Machine
end

