-- ==== Sys2Proof/Machine/Ops.lean ====
section
/-! DEFINITION. The named operations over memory, registers, stack and fault latch (spec 10_state, 20_memory,
60_exceptions R226). Every meaning reads and writes the state through these. -/

namespace Sys2Proof.Machine

/-- What a step answers. -/
abbrev Result := Host.Outcome State Fault Refusal

/-! ## Memory (20_memory) -/

/-- What an unlisted address reads as on a machine whose FONT is `f`: the reset contents, FONT at 0x000 to 0x04F and 0
above (R26, R61). -/
def Memory.resetByte (f : Font) (a : Nat) : Byte := if h : a < 80 then f[a] else 0

/-- The byte held at `a`, bounds not checked. -/
def Memory.read (f : Font) : Memory → Nat → Byte
  | [], a => Memory.resetByte f a
  | (c, d) :: rest, a =>
    if a < c then Memory.resetByte f a else if a = c then d else Memory.read f rest a

/-- Put `b` at `a`, bounds not checked, keeping the canonical form: writing what an unlisted address reads as removes
the pair. -/
def Memory.write (f : Font) : Memory → Nat → Byte → Memory
  | [], a, b => if b = Memory.resetByte f a then [] else [(a, b)]
  | (c, d) :: rest, a, b =>
    if a < c then
      if b = Memory.resetByte f a then (c, d) :: rest else (a, b) :: (c, d) :: rest
    else if a = c then
      if b = Memory.resetByte f a then rest else (a, b) :: rest
    else (c, d) :: Memory.write f rest a b

/-- Consecutive bytes written from `a` upward, bounds not checked. -/
def Memory.writeAll (f : Font) (m : Memory) : Nat → List Byte → Memory
  | _, [] => m
  | a, b :: bs => Memory.writeAll f (m.write f a b) (a + 1) bs

/-- The canonical form from address `lo` on: addresses rise, stay below 0x1000, and no pair equals the unlisted byte. -/
def Memory.wfFrom (f : Font) : Nat → Memory → Bool
  | _, [] => true
  | lo, (a, b) :: rest =>
    decide (lo ≤ a) && decide (a < 0x1000) && decide (b ≠ Memory.resetByte f a) && Memory.wfFrom f (a + 1) rest

/-- The canonical form of memory on a machine whose FONT is `f` (log 20). -/
def Memory.wf (f : Font) (m : Memory) : Bool := Memory.wfFrom f 0 m

/-- The MEM_OOB fault at address `a` (R64, R222). -/
def memOobAt (a : Nat) : Trap := { cause := .memOob, info := BitVec.ofNat 16 a }

/-- MemRead(a, 1) (R66): `a` is a natural number and is not reduced. -/
def memRead (f : Font) (m : Memory) (a : Nat) : Except Trap Byte :=
  if a > 0xFFF then .error (memOobAt a) else .ok (m.read f a)

/-- MemWrite(a, 1, b) (R67): no address is protected. -/
def memWrite (f : Font) (m : Memory) (a : Nat) (b : Byte) : Except Trap Memory :=
  if a > 0xFFF then .error (memOobAt a) else .ok (m.write f a b)

/-- `n` MemReads at a, a + 1, ...; the fault is that of the lowest address out of bounds (R229). -/
def memReadAll (f : Font) (m : Memory) : Nat → Nat → Except Trap (List Byte)
  | _, 0 => .ok []
  | a, n + 1 =>
    match memRead f m a with
    | .error t => .error t
    | .ok b =>
      match memReadAll f m (a + 1) n with
      | .error t => .error t
      | .ok bs => .ok (b :: bs)

/-- MemWrites at a, a + 1, ...; a fault anywhere writes nothing (R67), and it is that of the lowest address out of
bounds (R229). -/
def memWriteAll (f : Font) (m : Memory) : Nat → List Byte → Except Trap Memory
  | _, [] => .ok m
  | a, b :: bs =>
    match memWrite f m a b with
    | .error t => .error t
    | .ok m' => memWriteAll f m' (a + 1) bs

/-- Fetch16(a) (R68): two byte reads, big-endian (R62). An odd address is fetched like any other (R63; log 9). -/
def fetch16 (f : Font) (m : Memory) (a : Nat) : Except Trap Word :=
  match memRead f m a with
  | .error t => .error t
  | .ok b0 =>
    match memRead f m (a + 1) with
    | .error t => .error t
    | .ok b1 => .ok (wordOfBytes b0 b1)

/-- mem[a] of a state: its memory read under its own FONT, bounds not checked (R26). -/
def State.byteAt (s : State) (a : Nat) : Byte := s.mem.read s.params.font a

/-- The state's memory is in canonical form under its own FONT (log 20). -/
def State.memWf (s : State) : Bool := s.mem.wf s.params.font

/-- mem[a], mem[a + 1], ... of a state become `bs`, bounds not checked (R26). -/
def State.storeFrom (s : State) (a : Nat) (bs : List Byte) : State :=
  { s with mem := s.mem.writeAll s.params.font a bs }

/-! ## Registers (10_state) -/

/-- V[r] (R21). -/
def State.getV (s : State) (r : Nibble) : Byte := s.v[r.toNat]'r.isLt

/-- V[r] <- b (R21). No register is hard-wired. -/
def State.setV (s : State) (r : Nibble) (b : Byte) : State := { s with v := s.v.set r.toNat b r.isLt }

/-- V[k] <- first byte, V[k+1] <- second, ... up to VF (46_index_bcd_bulk R203). -/
def State.setVFrom (s : State) (k : Nat) : List Byte → State
  | [] => s
  | b :: bs => State.setVFrom { s with v := s.v.setIfInBounds k b } (k + 1) bs

/-- pc <- t. -/
def State.setPc (s : State) (t : Word) : State := { s with pc := t }

/-- pc <- (pc + 2) mod 2^16: the fetch's advance (R23, R37), and once more for a skip (40_control_flow R120). -/
def State.advance (s : State) : State := { s with pc := s.pc + 2 }

/-- I <- a (R25). -/
def State.setIdx (s : State) (a : Word) : State := { s with idx := a }

/-- DT <- b (R31). -/
def State.setDt (s : State) (b : Byte) : State := { s with dt := b }

/-- ST <- b (R31). -/
def State.setSt (s : State) (b : Byte) : State := { s with st := b }

/-- disp <- d (R28). -/
def State.setDisp (s : State) (d : Display) : State := { s with disp := d }

/-- mem <- m (R26). -/
def State.setMem (s : State) (m : Memory) : State := { s with mem := m }

/-- key[k] <- pressed (R30). -/
def State.setKeyState (s : State) (k : Nibble) (pressed : Bool) : State :=
  { s with keys := s.keys.set k.toNat pressed k.isLt }

/-- Whether key k is pressed (R30). -/
def State.getKey (s : State) (k : Nibble) : Bool := s.keys[k.toNat]'k.isLt

/-! ## The stack (10_state R29) -/

/-- sp <- n and the stack array <- a (R29). -/
def State.setStack (s : State) (n : Fin 17) (a : Vector Word 16) : State := { s with sp := n, stack := a }

/-- Push: append at the pointer, then increment; STACK_OVERFLOW(16) when sp = 16 (R29, 60_exceptions R224). -/
def State.push (s : State) (w : Word) : Except Trap State :=
  if h : s.sp.val < 16 then
    .ok (s.setStack ⟨s.sp.val + 1, by omega⟩ (s.stack.set s.sp.val w h))
  else .error { cause := .stackOverflow, info := 16 }

/-- Pop: decrement, then read; the entry keeps its value; STACK_UNDERFLOW(0) when sp = 0 (R29, R225; log 14). -/
def State.pop (s : State) : Except Trap (Word × State) :=
  if h : 0 < s.sp.val then
    .ok (s.stack[s.sp.val - 1]'(by omega), s.setStack ⟨s.sp.val - 1, by omega⟩ s.stack)
  else .error { cause := .stackUnderflow, info := 0 }

/-! ## The random input (00_scope R7) -/

/-- The byte the next RND draws: a free value (log 5). -/
def State.nextRandom (s : State) : Byte := Config.rnd s.outside.draws

/-- One random byte has been drawn, so that two executions draw independently (42_addressing R161). -/
def State.drawn (s : State) : State := { s with outside := { s.outside with draws := s.outside.draws + 1 } }

/-! ## Taking a fault (60_exceptions R226) -/

/-- The fault latch written, everything else as it stands (R226 b). -/
def State.enterFault (s : State) (t : Trap) : State :=
  { s with status := .faulted, cause := t.cause, info := t.info }

/-- raise <Fault>(info) (R226): `s` is the state BEFORE the step, pc not advanced, so that every write of the step is
discarded. Control goes nowhere; there is no handler. The way back is RESET alone (R231; `State.resetCommand`). -/
def raise (s : State) (t : Trap) : Result := .next (s.enterFault t)

/-- RESET (70_reset_and_hazards R260): every field of the Machine at its reset value, the latch cleared. The parameters are
fixed (00_scope R7), and the model's record of the host is not the Machine's state and stays (log 21). -/
def State.resetCommand (s : State) : State := { State.resetWith s.params with outside := s.outside }

/-- The number of a cause (R221). -/
def FaultCause.code : FaultCause → Nat
  | .none => 0
  | .memOob => 1
  | .illegalOpcode => 2
  | .stackOverflow => 3
  | .stackUnderflow => 4
  | .keyIndexRange => 5

/-! ## The display (10_state R28) -/

/-- disp[x + 64*y], the pixel (x, y); no pixel lies outside 64 x 32. -/
def Display.pixel (d : Display) (x y : Nat) : Bool :=
  if h : y < 32 then d[y].getLsbD x else false

/-- disp[x + 64*y] <- not disp[x + 64*y] (43_display R171). -/
def Display.toggle (d : Display) (x y : Nat) : Display :=
  if h : y < 32 then d.set y (d[y] ^^^ BitVec.twoPow 64 x) else d

/-- Every pixel false (40_control_flow R122). -/
def Display.clear : Display := Vector.replicate 32 0

/-- disp[0..2047], row-major (R36). -/
def Display.readout (d : Display) : List Bool := (List.range 2048).map fun k => Display.pixel d (k % 64) (k / 64)

end Sys2Proof.Machine
end

