-- ==== Sys2Proof/Machine/Operands.lean ====
section
/-! DEFINITION. The operand forms of the instructions (spec 30_encoding R93): immediates, addresses, register ranges,
key indices, glyph addresses, decimal digits, sprites. -/

namespace Sys2Proof.Machine

/-- zext_16(NNN) (R93). -/
def zextAddr (nnn : Addr12) : Word := nnn.zeroExtend 16

/-- zext_16 of a byte (R9). -/
def zextByte (b : Byte) : Word := b.zeroExtend 16

/-- The key an index byte names: none above 15 (44_input R180, D8; log 10). -/
def keyOfByte (b : Byte) : Option Nibble := if b.toNat > 15 then none else some (BitVec.ofNat 4 b.toNat)

/-- The KEY_INDEX_RANGE fault for the index byte `b` (60_exceptions R221, R227). -/
def keyIndexTrap (b : Byte) : Trap := { cause := .keyIndexRange, info := zextByte b }

/-- The sixteen key indices, rising. -/
def allKeys : List Nibble := (List.range 16).map (BitVec.ofNat 4)

/-- The least k with key[k] pressed, if any is (44_input R182). -/
def lowestPressed (s : State) : Option Nibble := allKeys.find? s.getKey

/-- The address of the glyph of a byte's low nibble, 5 * (b & 0xF) (42_addressing R162). -/
def glyphAddr (b : Byte) : Word := 5 * zextByte (b &&& 0x0F)

/-- Hundreds, tens and ones of a byte (46_index_bcd_bulk R201). -/
def bcdDigits (b : Byte) : List Byte :=
  [BitVec.ofNat 8 (b.toNat / 100), BitVec.ofNat 8 (b.toNat / 10 % 10), BitVec.ofNat 8 (b.toNat % 10)]

/-- V0 .. VX, X + 1 bytes, ascending (46_index_bcd_bulk R202). -/
def registerRange (s : State) (x : Nibble) : List Byte := s.v.toList.take (x.toNat + 1)

/-- Column c of a sprite row: bit 7 - c, the most significant bit leftmost (43_display R170, D11; log 13). -/
def spriteBit (row : Byte) (c : Nat) : Bool := row.getLsbD (7 - c)

/-- One set bit of a sprite: the pixel flips, and a pixel that was on makes a collision (43_display R171). -/
def drawPixel (acc : Display × Bool) (x y : Nat) : Display × Bool :=
  (Display.toggle acc.1 x y, acc.2 || Display.pixel acc.1 x y)

/-- Columns c, c + 1, ... (`n` of them) of one sprite row, each pixel at (x0 + c) mod 64 (R170). -/
def drawColumns (x0 y : Nat) (row : Byte) : Nat → Nat → Display × Bool → Display × Bool
  | _, 0, acc => acc
  | c, n + 1, acc =>
    drawColumns x0 y row (c + 1) n (if spriteBit row c then drawPixel acc ((x0 + c) % 64) y else acc)

/-- The rows of a sprite from row r on, row r at (y0 + r) mod 32, eight columns each (R170, R171). -/
def drawRows (x0 y0 : Nat) : Nat → List Byte → Display × Bool → Display × Bool
  | _, [], acc => acc
  | r, row :: rows, acc => drawRows x0 y0 (r + 1) rows (drawColumns x0 ((y0 + r) % 32) row 0 8 acc)

/-- The display after the sprite is drawn at (x0, y0), and whether a lit pixel was turned off (R171). -/
def drawSprite (d : Display) (x0 y0 : Nat) (rows : List Byte) : Display × Bool := drawRows x0 y0 0 rows (d, false)

end Sys2Proof.Machine
end

