-- ==== Sys2Proof/Machine/Flags.lean ====
section
/-! DEFINITION. The values VF takes (spec 10_state R22) and the order of the result write and the flag write
(41_arithmetic R141). -/

namespace Sys2Proof.Machine

/-- The index of VF (R6). -/
def flagReg : Nibble := 0xF

/-- A flag is the byte 0x00 or 0x01 (R22). -/
def flagByte (b : Bool) : Byte := if b then 1 else 0

/-- Carry out of bit 7: 1 if a + b ≥ 256 (R148). -/
def carryFlag (a b : Byte) : Byte := flagByte (decide (a.toNat + b.toNat ≥ 256))

/-- NOT borrow of a - b: 1 if a ≥ b (R149, R150). -/
def noBorrowFlag (a b : Byte) : Byte := flagByte (decide (a.toNat ≥ b.toNat))

/-- The pre-shift low bit (R151). -/
def lowBitFlag (a : Byte) : Byte := flagByte (a.getLsbD 0)

/-- The pre-shift high bit (R152). -/
def highBitFlag (a : Byte) : Byte := flagByte (a.getLsbD 7)

/-- V[X] <- r first, VF <- f second, so that with X = 0xF the flag stays and the result is lost (R141 c, D9; log 11). -/
def State.setResultAndFlag (s : State) (x : Nibble) (r f : Byte) : State := (s.setV x r).setV flagReg f

end Sys2Proof.Machine
end

