-- ==== Sys2Proof/Machine/Addressing.lean ====
section
/-! DEFINITION. Addressing instructions (spec 42_addressing R160 to R162). All fall through and none faults. -/

namespace Sys2Proof.Machine

/-- LD I, nnn (R160). -/
def execLdI (nnn : Addr12) (s : State) : Result := .next (s.setIdx (zextAddr nnn)).advance

/-- RND Vx, kk (R161): the random byte is free (log 5). -/
def execRnd (x : Nibble) (kk : Byte) (s : State) : Result := .next (s.setV x (s.nextRandom &&& kk)).drawn.advance

/-- LD F, Vx (R162). -/
def execLdF (x : Nibble) (s : State) : Result := .next (s.setIdx (glyphAddr (s.getV x))).advance

end Sys2Proof.Machine
end

