-- ==== Sys2Proof/Machine/Arithmetic.lean ====
section
/-! DEFINITION. Immediate and register arithmetic (spec 41_arithmetic R140 to R152). Every instruction falls through and
none faults. -/

namespace Sys2Proof.Machine

/-- LD Vx, kk (R142). -/
def execLdImm (x : Nibble) (kk : Byte) (s : State) : Result := .next (s.setV x kk).advance

/-- ADD Vx, kk (R143): no flag. -/
def execAddImm (x : Nibble) (kk : Byte) (s : State) : Result := .next (s.setV x (s.getV x + kk)).advance

/-- LD Vx, Vy (R144). -/
def execLdReg (x y : Nibble) (s : State) : Result := .next (s.setV x (s.getV y)).advance

/-- OR Vx, Vy (R145): VF neither set nor cleared. -/
def execOrReg (x y : Nibble) (s : State) : Result := .next (s.setV x (s.getV x ||| s.getV y)).advance

/-- AND Vx, Vy (R146). -/
def execAndReg (x y : Nibble) (s : State) : Result := .next (s.setV x (s.getV x &&& s.getV y)).advance

/-- XOR Vx, Vy (R147). -/
def execXorReg (x y : Nibble) (s : State) : Result := .next (s.setV x (s.getV x ^^^ s.getV y)).advance

/-- ADD Vx, Vy (R148): VF = carry. -/
def execAddReg (x y : Nibble) (s : State) : Result :=
  .next (s.setResultAndFlag x (s.getV x + s.getV y) (carryFlag (s.getV x) (s.getV y))).advance

/-- SUB Vx, Vy (R149): VF = no borrow. -/
def execSubReg (x y : Nibble) (s : State) : Result :=
  .next (s.setResultAndFlag x (s.getV x - s.getV y) (noBorrowFlag (s.getV x) (s.getV y))).advance

/-- SUBN Vx, Vy (R150): V[Y] - V[X]. -/
def execSubnReg (x y : Nibble) (s : State) : Result :=
  .next (s.setResultAndFlag x (s.getV y - s.getV x) (noBorrowFlag (s.getV y) (s.getV x))).advance

/-- SHR Vx (R151): V[X] in place, V[Y] unread (D10; log 12). -/
def execShr (x : Nibble) (s : State) : Result :=
  .next (s.setResultAndFlag x (s.getV x >>> 1) (lowBitFlag (s.getV x))).advance

/-- SHL Vx (R152). -/
def execShl (x : Nibble) (s : State) : Result :=
  .next (s.setResultAndFlag x (s.getV x <<< 1) (highBitFlag (s.getV x))).advance

end Sys2Proof.Machine
end

