-- ==== Sys2Proof/Machine/ControlFlow.lean ====
section
/-! DEFINITION. The control-flow instructions (spec 40_control_flow R120 to R130). A meaning takes the state BEFORE the
fetch's advance; `State.advance` is that advance (10_state R37), and a fault is raised from the state it was given
(60_exceptions R226). -/

namespace Sys2Proof.Machine

/-- The next state: pc advanced past the instruction, and past the next one when `skip` holds (R120). -/
def skipIf (skip : Bool) (s : State) : Result := .next (if skip then s.advance.advance else s.advance)

/-- NOP (R121). -/
def execNop (s : State) : Result := .next s.advance

/-- CLS (R122). -/
def execCls (s : State) : Result := .next (s.setDisp Display.clear).advance

/-- RET (R123): the popped value is not checked. -/
def execRet (s : State) : Result :=
  match s.pop with
  | .error t => raise s t
  | .ok (target, s') => .next (s'.setPc target)

/-- JP nnn (R124). -/
def execJp (nnn : Addr12) (s : State) : Result := .next (s.setPc (zextAddr nnn))

/-- CALL nnn (R125): the advanced pc is pushed. -/
def execCall (nnn : Addr12) (s : State) : Result :=
  match s.push s.advance.pc with
  | .error t => raise s t
  | .ok s' => .next (s'.setPc (zextAddr nnn))

/-- SE Vx, kk (R126). -/
def execSeImm (x : Nibble) (kk : Byte) (s : State) : Result := skipIf (s.getV x == kk) s

/-- SNE Vx, kk (R127). -/
def execSneImm (x : Nibble) (kk : Byte) (s : State) : Result := skipIf (s.getV x != kk) s

/-- SE Vx, Vy (R128). -/
def execSeReg (x y : Nibble) (s : State) : Result := skipIf (s.getV x == s.getV y) s

/-- SNE Vx, Vy (R129). -/
def execSneReg (x y : Nibble) (s : State) : Result := skipIf (s.getV x != s.getV y) s

/-- JP V0, nnn (R130): a 16-bit sum, not masked to 12 bits (D19; log 17). -/
def execJpV0 (nnn : Addr12) (s : State) : Result := .next (s.setPc (zextAddr nnn + zextByte (s.getV 0)))

end Sys2Proof.Machine
end

