-- ==== Sys2Proof/Machine/Drawing.lean ====
section
/-! DEFINITION. The draw instruction (spec 43_display R170 to R172). -/

namespace Sys2Proof.Machine

/-- DRW Vx, Vy, n (R171): all rows are read before a pixel changes; VF is written last, on every DRW. -/
def execDrw (x y n : Nibble) (s : State) : Result :=
  match memReadAll s.params.font s.mem s.idx.toNat n.toNat with
  | .error t => raise s t
  | .ok rows =>
    let drawn := drawSprite s.disp (s.getV x).toNat (s.getV y).toNat rows
    .next ((s.setDisp drawn.1).setV flagReg (flagByte drawn.2)).advance

end Sys2Proof.Machine
end

