-- ==== Sys2Proof/Machine/IndexBulk.lean ====
section
/-! DEFINITION. Index arithmetic, BCD store, bulk register store and load (spec 46_index_bcd_bulk R200 to R203). I is
left as it is by the last three. -/

namespace Sys2Proof.Machine

/-- ADD I, Vx (R200): 16-bit wraparound, no flag. -/
def execAddI (x : Nibble) (s : State) : Result := .next (s.setIdx (s.idx + zextByte (s.getV x))).advance

/-- Store bytes from I upward, all or nothing (R201, R202). -/
def storeAtIdx (bs : List Byte) (s : State) : Result :=
  match memWriteAll s.params.font s.mem s.idx.toNat bs with
  | .error t => raise s t
  | .ok m => .next (s.setMem m).advance

/-- LD B, Vx (R201). -/
def execLdB (x : Nibble) (s : State) : Result := storeAtIdx (bcdDigits (s.getV x)) s

/-- LD [I], Vx (R202). -/
def execStoreRegs (x : Nibble) (s : State) : Result := storeAtIdx (registerRange s x) s

/-- LD Vx, [I] (R203): all reads first. -/
def execLoadRegs (x : Nibble) (s : State) : Result :=
  match memReadAll s.params.font s.mem s.idx.toNat (x.toNat + 1) with
  | .error t => raise s t
  | .ok bs => .next (s.setVFrom 0 bs).advance

end Sys2Proof.Machine
end

