-- ==== Sys2Proof/Machine/Input.lean ====
section
/-! DEFINITION. Key input instructions (spec 44_input R180 to R182). They sample the level of the keys. -/

namespace Sys2Proof.Machine

/-- SKP Vx (R180): KEY_INDEX_RANGE above 15. -/
def execSkp (x : Nibble) (s : State) : Result :=
  match keyOfByte (s.getV x) with
  | none => raise s (keyIndexTrap (s.getV x))
  | some k => skipIf (s.getKey k) s

/-- SKNP Vx (R181): KEY_INDEX_RANGE above 15. -/
def execSknp (x : Nibble) (s : State) : Result :=
  match keyOfByte (s.getV x) with
  | none => raise s (keyIndexTrap (s.getV x))
  | some k => skipIf (!s.getKey k) s

/-- LD Vx, K (R182): the lowest pressed key, or pc back to this instruction's own address. -/
def execLdKey (x : Nibble) (s : State) : Result :=
  match lowestPressed s with
  | some k => .next (s.setV x (k.zeroExtend 8)).advance
  | none => .next (s.advance.setPc (s.advance.pc - 2))

end Sys2Proof.Machine
end

