-- ==== Sys2Proof/Machine/Timers.lean ====
section
/-! DEFINITION. Timer instructions (spec 45_timers R190 to R192). The countdown is TICK (`State.tick`). -/

namespace Sys2Proof.Machine

/-- LD Vx, DT (R190). -/
def execLdFromDt (x : Nibble) (s : State) : Result := .next (s.setV x s.dt).advance

/-- LD DT, Vx (R191). -/
def execLdDt (x : Nibble) (s : State) : Result := .next (s.setDt (s.getV x)).advance

/-- LD ST, Vx (R192). -/
def execLdSt (x : Nibble) (s : State) : Result := .next (s.setSt (s.getV x)).advance

end Sys2Proof.Machine
end

