-- ==== Sys2Proof/Machine/Commands.lean ====
section
/-! DEFINITION. The host's commands (spec 10_state R35 to R37, 60_exceptions R241, R243, 70_reset_and_hazards R260,
R263) and the order in which the Machine carries them out (log 18). -/

namespace Sys2Proof.Machine

/-- STEP (R37): fetch, decode by the machine's JP_V0_IMPLEMENTED (40_control_flow R130), execute. In FAULTED it does nothing
(R232). -/
def stepCommand (s : State) : Result :=
  match s.status with
  | .faulted => .next s
  | .running =>
    match fetch16 s.params.font s.mem s.pc.toNat with
    | .error t => raise s t
    | .ok w =>
      match decodeWord s.params.jpV0Implemented w with
      | .error _ => raise s { cause := .illegalOpcode, info := w }
      | .ok i => exec i s

/-- The host's record of an answer. -/
def State.answer (s : State) (r : Reply) : State := { s with outside := { s.outside with reply := r } }

/-- A timer's guarded decrement: never below 0 (R241, U5). -/
def countDown (b : Byte) : Byte := if b.toNat > 0 then b - 1 else b

/-- TICK (R241): both timers count down; the answer is whether ST was above 0 before. -/
def State.tick (s : State) : State :=
  (({ s with dt := countDown s.dt, st := countDown s.st } : State)).answer (.tone (decide (s.st.toNat > 0)))

/-- The load address of an image, ENTRY (R6, R263). -/
def entryAddr : Nat := 0x200

/-- The longest image that fits, IMAGE_MAX (R6, R263). -/
def imageMax : Nat := 3584

/-- LOAD (R263): the image at 0x200 upward; an image that does not fit is refused whole (D16; log 15). -/
def State.load (s : State) (image : List Byte) : State :=
  if image.length ≤ imageMax then (s.storeFrom entryAddr image).answer .loaded
  else s.answer .loadRefused

/-- One command, from start to end (R35). -/
def runCommand (c : Command) (s : State) : Result :=
  match c with
  | .step => stepCommand s
  | .tick => .next s.tick
  | .setKey k pressed => .next (s.setKeyState k pressed)
  | .load image => .next (s.load image)
  | .reset => .next s.resetCommand
  | .readout => .next (s.answer (.pixels (Display.readout s.disp)))

/-- The host's record with the commands still to come. -/
def State.setPending (s : State) (cs : List Command) : State := { s with outside := { s.outside with pending := cs } }

/-- The next command in the host's total order: the oldest pending one, or STEP when none is pending (R35; log 18). -/
def nextCommand (s : State) : Result :=
  match s.outside.pending with
  | [] => runCommand .step s
  | c :: rest => runCommand c (s.setPending rest)

/-- `s` made ready so that the very next step is a STEP that fetches `w`: the word stored at pc, nothing pending, the
latch clear, and pc moved to ENTRY only where nothing can be fetched at it (log 19). -/
def State.placeWord (s : State) (w : Word) : State :=
  let a := if s.pc.toNat ≤ 0xFFE then s.pc.toNat else entryAddr
  { s.storeFrom a [highByte w, lowByte w] with
    pc := BitVec.ofNat 16 a
    status := .running
    cause := .none
    info := 0
    outside := { s.outside with pending := [] } }

end Sys2Proof.Machine
end

