-- ==== Sys2Proof/Machine/Step.lean ====
section
/-! DEFINITION. One step of the model: the next command of the host's order, a STEP unless another is pending. -/

namespace Sys2Proof.Machine

/-- The next command (spec 10_state R35), STEP (R37) when none is pending. -/
def step (s : State) : Host.Outcome State Fault Refusal := nextCommand s

/-- `s` with the instruction whose word is `w` (bits above `nbits` zero) stored where `step` fetches next. -/
def State.withFetchWord (s : State) (nbits w : Nat) : State := s.placeWord (BitVec.ofNat 16 (w % 2 ^ nbits))

end Sys2Proof.Machine
end

