-- ==== Sys2Proof/Safety.lean ====
section
/-! DEFINITION. The terms claims are stated in: frames (what a step leaves unchanged), the invariants of spec 10_state
R38, and what it is to be in FAULTED. -/

namespace Sys2Proof

open Sys2Proof.Machine

/-- The parts of the state a frame speaks of. -/
inductive Part where
  | pc
  | v
  | idx
  | stack
  | dt
  | st
  | keys
  | disp
  | mem
  | latch
  | params
  | outside
  deriving DecidableEq, Repr

/-- `t` differs from `s` at most in the parts of `changed`; memory is compared byte by byte, over every address. -/
def Frame (changed : List Part) (s t : State) : Prop :=
  (Part.pc ∉ changed → t.pc = s.pc) ∧
  (Part.v ∉ changed → ∀ r, t.getV r = s.getV r) ∧
  (Part.idx ∉ changed → t.idx = s.idx) ∧
  (Part.stack ∉ changed → t.sp = s.sp ∧ t.stack = s.stack) ∧
  (Part.dt ∉ changed → t.dt = s.dt) ∧
  (Part.st ∉ changed → t.st = s.st) ∧
  (Part.keys ∉ changed → ∀ k, t.getKey k = s.getKey k) ∧
  (Part.disp ∉ changed → ∀ x y, Display.pixel t.disp x y = Display.pixel s.disp x y) ∧
  (Part.mem ∉ changed → ∀ a, t.byteAt a = s.byteAt a) ∧
  (Part.latch ∉ changed → t.status = s.status ∧ t.cause = s.cause ∧ t.info = s.info) ∧
  (Part.params ∉ changed → t.params = s.params) ∧
  (Part.outside ∉ changed → t.outside = s.outside)

/-- Every register but those of `written` is as it was. -/
def KeepsOtherRegisters (written : List Nibble) (s t : State) : Prop :=
  ∀ r, r ∉ written → t.getV r = s.getV r

/-- The latch holds the fault `cause` with `info` (60_exceptions R226 b). -/
def Latched (cause : FaultCause) (info : Word) (s : State) : Prop :=
  s.status = .faulted ∧ s.cause = cause ∧ s.info = info

/-- pc ≤ 0x10FE, and every return address is one a CALL can push, at most 0x1000 (10_state R24, R38). -/
def PcInRange (s : State) : Prop :=
  s.pc.toNat ≤ 0x10FE ∧ ∀ (k : Nat) (h : k < 16), s.stack[k].toNat ≤ 0x1000

/-- The latch is as a reset or a fault leaves it: in RUNNING no cause and no info, in FAULTED a cause with an info of
its row (60_exceptions R221). -/
def LatchConsistent (s : State) : Prop :=
  match s.status, s.cause with
  | .running, .none => s.info = 0
  | .running, _ => False
  | .faulted, .none => False
  | .faulted, .memOob => 0x1000 ≤ s.info.toNat
  | .faulted, .illegalOpcode => ∃ e, decodeWord s.params.jpV0Implemented s.info = .error e
  | .faulted, .stackOverflow => s.info = 16
  | .faulted, .stackUnderflow => s.info = 0
  | .faulted, .keyIndexRange => 15 < s.info.toNat ∧ s.info.toNat ≤ 0xFF

/-- What holds between any two commands from reset onward (10_state R38), and the canonical form of memory. sp ≤ 16 and
8-bit timers hold by type. -/
def Inv (s : State) : Prop := s.memWf = true ∧ PcInRange s ∧ LatchConsistent s

/-- The registers an instruction may write: its destination, VF for a flag-writing instruction (10_state R22), V0 to VX
for the bulk load (46_index_bcd_bulk R203). -/
def Instr.writtenRegs : Instr → List Nibble
  | .nop => []
  | .cls => []
  | .ret => []
  | .jp _ => []
  | .call _ => []
  | .seImm _ _ => []
  | .sneImm _ _ => []
  | .seReg _ _ => []
  | .sneReg _ _ => []
  | .jpV0 _ => []
  | .ldImm x _ => [x]
  | .addImm x _ => [x]
  | .ldReg x _ => [x]
  | .orReg x _ => [x]
  | .andReg x _ => [x]
  | .xorReg x _ => [x]
  | .addReg x _ => [x, flagReg]
  | .subReg x _ => [x, flagReg]
  | .subnReg x _ => [x, flagReg]
  | .shr x => [x, flagReg]
  | .shl x => [x, flagReg]
  | .ldI _ => []
  | .rnd x _ => [x]
  | .ldF _ => []
  | .drw _ _ _ => [flagReg]
  | .skp _ => []
  | .sknp _ => []
  | .ldKey x => [x]
  | .ldFromDt x => [x]
  | .ldDt _ => []
  | .ldSt _ => []
  | .addI _ => []
  | .ldB _ => []
  | .storeRegs _ => []
  | .loadRegs x => (List.range (x.toNat + 1)).map (BitVec.ofNat 4)

/-- The instructions that write VF as a flag (10_state R22). -/
def Instr.writesFlag : Instr → Bool
  | .addReg _ _ => true
  | .subReg _ _ => true
  | .subnReg _ _ => true
  | .shr _ => true
  | .shl _ => true
  | .drw _ _ _ => true
  | .nop => false
  | .cls => false
  | .ret => false
  | .jp _ => false
  | .call _ => false
  | .seImm _ _ => false
  | .sneImm _ _ => false
  | .seReg _ _ => false
  | .sneReg _ _ => false
  | .jpV0 _ => false
  | .ldImm _ _ => false
  | .addImm _ _ => false
  | .ldReg _ _ => false
  | .orReg _ _ => false
  | .andReg _ _ => false
  | .xorReg _ _ => false
  | .ldI _ => false
  | .rnd _ _ => false
  | .ldF _ => false
  | .skp _ => false
  | .sknp _ => false
  | .ldKey _ => false
  | .ldFromDt _ => false
  | .ldDt _ => false
  | .ldSt _ => false
  | .addI _ => false
  | .ldB _ => false
  | .storeRegs _ => false
  | .loadRegs _ => false

/-- The parts, pc apart, that an instruction may write when it does not fault: the display only by CLS and DRW (R28), the
stack only by CALL and RET (R29), I only by LD I, LD F and ADD I (R25), DT only by LD DT, ST only by LD ST (R31), memory
only by LD B and LD [I] (20_memory R60), no key at all (R30). RND also counts its draw in the model's own record. -/
def Instr.writtenParts : Instr → List Part
  | .nop => [.pc]
  | .cls => [.pc, .disp]
  | .ret => [.pc, .stack]
  | .jp _ => [.pc]
  | .call _ => [.pc, .stack]
  | .seImm _ _ => [.pc]
  | .sneImm _ _ => [.pc]
  | .seReg _ _ => [.pc]
  | .sneReg _ _ => [.pc]
  | .jpV0 _ => [.pc]
  | .ldImm _ _ => [.pc, .v]
  | .addImm _ _ => [.pc, .v]
  | .ldReg _ _ => [.pc, .v]
  | .orReg _ _ => [.pc, .v]
  | .andReg _ _ => [.pc, .v]
  | .xorReg _ _ => [.pc, .v]
  | .addReg _ _ => [.pc, .v]
  | .subReg _ _ => [.pc, .v]
  | .subnReg _ _ => [.pc, .v]
  | .shr _ => [.pc, .v]
  | .shl _ => [.pc, .v]
  | .ldI _ => [.pc, .idx]
  | .rnd _ _ => [.pc, .v, .outside]
  | .ldF _ => [.pc, .idx]
  | .drw _ _ _ => [.pc, .v, .disp]
  | .skp _ => [.pc]
  | .sknp _ => [.pc]
  | .ldKey _ => [.pc, .v]
  | .ldFromDt _ => [.pc, .v]
  | .ldDt _ => [.pc, .dt]
  | .ldSt _ => [.pc, .st]
  | .addI _ => [.pc, .idx]
  | .ldB _ => [.pc, .mem]
  | .storeRegs _ => [.pc, .mem]
  | .loadRegs _ => [.pc, .v]

/-- Every piece of state has the value of the reset table (10_state R34), FONT being `font`. -/
def AtReset (font : Font) (s : State) : Prop :=
  s.pc = 0x0200 ∧ (∀ r, s.getV r = 0) ∧ s.idx = 0 ∧ s.sp.val = 0 ∧
  (∀ (k : Nat) (h : k < 16), s.stack[k] = 0) ∧ s.dt = 0 ∧ s.st = 0 ∧ (∀ k, s.getKey k = false) ∧
  (∀ x y, x < 64 → y < 32 → Display.pixel s.disp x y = false) ∧
  (∀ (a : Nat) (h : a < 80), s.byteAt a = font[a]) ∧ (∀ a, 0x50 ≤ a → a ≤ 0xFFF → s.byteAt a = 0) ∧
  s.status = .running ∧ s.cause.code = 0 ∧ s.info = 0

/-- The word a STEP fetches at `s`: big-endian, at pc and pc + 1 (20_memory R62). -/
def fetchedWord (s : State) : Word := wordOfBytes (s.byteAt s.pc.toNat) (s.byteAt (s.pc.toNat + 1))

/-- The fault an instruction raises at `s`, if any (60_exceptions R221, R222). -/
def instrFault (i : Instr) (s : State) : Option Trap :=
  let outOfBounds (n : Nat) : Option Trap :=
    if n ≠ 0 ∧ 0xFFF < s.idx.toNat + (n - 1) then
      some { cause := .memOob, info := BitVec.ofNat 16 (max s.idx.toNat 0x1000) } else none
  let keyRange (x : Nibble) : Option Trap :=
    if 15 < (s.getV x).toNat then
      some { cause := .keyIndexRange, info := BitVec.ofNat 16 (s.getV x).toNat } else none
  match i with
  | .ret => if s.sp.val = 0 then some { cause := .stackUnderflow, info := 0 } else none
  | .call _ => if s.sp.val = 16 then some { cause := .stackOverflow, info := 16 } else none
  | .drw _ _ n => outOfBounds n.toNat
  | .skp x => keyRange x
  | .sknp x => keyRange x
  | .ldB _ => outOfBounds 3
  | .storeRegs x => outOfBounds (x.toNat + 1)
  | .loadRegs x => outOfBounds (x.toNat + 1)
  | .nop => none
  | .cls => none
  | .jp _ => none
  | .seImm _ _ => none
  | .sneImm _ _ => none
  | .seReg _ _ => none
  | .sneReg _ _ => none
  | .jpV0 _ => none
  | .ldImm _ _ => none
  | .addImm _ _ => none
  | .ldReg _ _ => none
  | .orReg _ _ => none
  | .andReg _ _ => none
  | .xorReg _ _ => none
  | .addReg _ _ => none
  | .subReg _ _ => none
  | .subnReg _ _ => none
  | .shr _ => none
  | .shl _ => none
  | .ldI _ => none
  | .rnd _ _ => none
  | .ldF _ => none
  | .ldKey _ => none
  | .ldFromDt _ => none
  | .ldDt _ => none
  | .ldSt _ => none
  | .addI _ => none

/-- The fault a STEP raises in RUNNING, if any, in the order of rule R229: the fetch's, first byte then second; the
illegal word; the instruction's own. -/
def stepFault (s : State) : Option Trap :=
  if 0xFFF < s.pc.toNat then some { cause := .memOob, info := s.pc }
  else if 0xFFF < s.pc.toNat + 1 then some { cause := .memOob, info := s.pc + 1 }
  else
    match decodeWord s.params.jpV0Implemented (fetchedWord s) with
    | .error _ => some { cause := .illegalOpcode, info := fetchedWord s }
    | .ok i => instrFault i s

/-- The sprite's `n` bytes: row r at I + r (43_display R170). -/
def spriteRows (s : State) (n : Nat) : List Byte := (List.range n).map fun r => s.byteAt (s.idx.toNat + r)

/-- Some 1 bit of the sprite, drawn at (x0, y0), lands on the pixel (x, y): column c of row r at
x = (x0 + c) mod 64, y = (y0 + r) mod 32, bit 7 - c of the byte (43_display R170). -/
def SpriteCovers (rows : List Byte) (x0 y0 x y : Nat) : Prop :=
  ∃ (r c : Nat) (h : r < rows.length), c < 8 ∧ rows[r].getLsbD (7 - c) = true ∧
    x = (x0 + c) % 64 ∧ y = (y0 + r) % 32

/-- The state after `k` TICKs (60_exceptions R241). -/
def afterTicks : Nat → State → State
  | 0, s => s
  | k + 1, s => (afterTicks k s).tick

/-- `k` steps of the machine, stopping where a step does not go on. -/
def runSteps : Nat → State → Result
  | 0, s => .next s
  | k + 1, s =>
    match step s with
    | .next t => runSteps k t
    | .fault r => .fault r
    | .refused r => .refused r

end Sys2Proof
end

