-- ==== Sys2Proof/Certificates/Slice0/Obligations.lean ====
section
/-! DEFINITION. The statements for the provers. Each docstring names the rules of spec/ the statement formalises and, where
it rests on a choice of the model, the log entry. -/

open Sys2Proof Sys2Proof.Machine

/-! ## Encoding -/

/-- One word of every row of R95, its fields written out from the encoding column, decodes to the row's instruction. -/
def Obligations.SampleWordOfEveryRowDecodes : Prop :=
  (decodeWord true 0x0000 = .ok .nop ∧ decodeWord true 0x00E0 = .ok .cls ∧ decodeWord true 0x00EE = .ok .ret ∧
    decodeWord true 0x1ABC = .ok (.jp 0xABC) ∧ decodeWord true 0x2210 = .ok (.call 0x210) ∧
    decodeWord true 0x3A5C = .ok (.seImm 0xA 0x5C) ∧ decodeWord true 0x4311 = .ok (.sneImm 0x3 0x11) ∧
    decodeWord true 0x5120 = .ok (.seReg 0x1 0x2) ∧ decodeWord true 0x9120 = .ok (.sneReg 0x1 0x2) ∧
    decodeWord true 0xB300 = .ok (.jpV0 0x300)) ∧
  (decodeWord true 0x6F07 = .ok (.ldImm 0xF 0x07) ∧ decodeWord true 0x7002 = .ok (.addImm 0x0 0x02) ∧
    decodeWord true 0x8120 = .ok (.ldReg 0x1 0x2) ∧ decodeWord true 0x8121 = .ok (.orReg 0x1 0x2) ∧
    decodeWord true 0x8122 = .ok (.andReg 0x1 0x2) ∧ decodeWord true 0x8123 = .ok (.xorReg 0x1 0x2) ∧
    decodeWord true 0x8F14 = .ok (.addReg 0xF 0x1) ∧ decodeWord true 0x8015 = .ok (.subReg 0x0 0x1) ∧
    decodeWord true 0x8127 = .ok (.subnReg 0x1 0x2) ∧ decodeWord true 0x8376 = .ok (.shr 0x3) ∧
    decodeWord true 0x8F0E = .ok (.shl 0xF)) ∧
  (decodeWord true 0xA300 = .ok (.ldI 0x300) ∧ decodeWord true 0xC10F = .ok (.rnd 0x1 0x0F) ∧
    decodeWord true 0xF029 = .ok (.ldF 0x0) ∧ decodeWord true 0xD125 = .ok (.drw 0x1 0x2 0x5) ∧
    decodeWord true 0xE49E = .ok (.skp 0x4) ∧ decodeWord true 0xE4A1 = .ok (.sknp 0x4) ∧
    decodeWord true 0xF50A = .ok (.ldKey 0x5) ∧ decodeWord true 0xF107 = .ok (.ldFromDt 0x1) ∧
    decodeWord true 0xF215 = .ok (.ldDt 0x2) ∧ decodeWord true 0xF318 = .ok (.ldSt 0x3) ∧
    decodeWord true 0xF21E = .ok (.addI 0x2) ∧ decodeWord true 0xFA33 = .ok (.ldB 0xA) ∧
    decodeWord true 0xF255 = .ok (.storeRegs 0x2) ∧ decodeWord true 0xFF65 = .ok (.loadRegs 0xF))

/-- Every well-formed instruction decodes back from its word, every operand at every value (R91, R93, R95). -/
def Obligations.DecodeOfEncode : Prop :=
  ∀ (jpV0 : Bool) (i : Instr), i.wellFormed jpV0 = true → decodeWord jpV0 (encode i) = .ok i

/-- A word that decodes is the word of its instruction, but for the Y field of the shifts, which is not used (R97); and
what decodes is well-formed (R95, R130). -/
def Obligations.EncodeOfDecode : Prop :=
  ∀ (jpV0 : Bool) (w : Word) (i : Instr), decodeWord jpV0 w = .ok i →
    i.wellFormed jpV0 = true ∧
    encode i = (if i.rowMatch = 0x8006 ∨ i.rowMatch = 0x800E then w &&& 0xFF0F else w)

/-- decode compares the word with the rows of the map: a decoded word lies in its instruction's row, a word decodes just
when some row matches, no word matches two rows, and a word that matches none is named as illegal (R94, R95). -/
def Obligations.DecodeFollowsMasksAndMatches : Prop :=
  ∀ (jpV0 : Bool) (w : Word),
    (∀ i, decodeWord jpV0 w = .ok i → w &&& i.rowMask = i.rowMatch) ∧
    ((∃ i, decodeWord jpV0 w = .ok i) ↔
      ∃ r ∈ opcodeRows, r.wellFormed jpV0 = true ∧ w &&& r.rowMask = r.rowMatch) ∧
    (∀ r ∈ opcodeRows, ∀ r' ∈ opcodeRows, w &&& r.rowMask = r.rowMatch → w &&& r'.rowMask = r'.rowMatch → r = r') ∧
    ((∀ i, decodeWord jpV0 w ≠ .ok i) → decodeWord jpV0 w = .error (.illegalOpcode w))

/-- The illegal words, class by class, each refused with the word itself (the class table of R96); with JP_V0_IMPLEMENTED false every `Bnnn` word besides (R130). -/
def Obligations.IllegalWordsByClass : Prop :=
  ∀ (jpV0 : Bool) (w : Word),
    decodeWord jpV0 w = .error (.illegalOpcode w) ↔
      (opField w = 0x0 ∧ w ≠ 0x0000 ∧ w ≠ 0x00E0 ∧ w ≠ 0x00EE) ∨
      (opField w = 0x5 ∧ nField w ≠ 0x0) ∨
      (opField w = 0x8 ∧ nField w ∈ ([0x8, 0x9, 0xA, 0xB, 0xC, 0xD, 0xF] : List Nibble)) ∨
      (opField w = 0x9 ∧ nField w ≠ 0x0) ∨
      (opField w = 0xB ∧ jpV0 = false) ∨
      (opField w = 0xE ∧ nnField w ∉ ([0x9E, 0xA1] : List Byte)) ∨
      (opField w = 0xF ∧
        nnField w ∉ ([0x07, 0x0A, 0x15, 0x18, 0x1E, 0x29, 0x33, 0x55, 0x65] : List Byte))

/-! ## A step -/

/-- When the two bytes at pc decode to `i`, a STEP is `exec i`: at a state with nothing pending, and at one whose oldest
pending command is STEP, with that command taken off. `exec i` holds the fetch's advance of pc, so step adds nothing
around it (R37). The pending list is the model's own (log 18). -/
def Obligations.StepRunsTheDecodedInstruction : Prop :=
  ∀ (s : State) (i : Instr), s.status = .running → s.pc.toNat ≤ 0xFFE →
    decode s.params.jpV0Implemented [s.byteAt s.pc.toNat, s.byteAt (s.pc.toNat + 1)] = .ok (i, []) →
    i.wellFormed s.params.jpV0Implemented = true →
    (s.outside.pending = [] → step s = exec i s) ∧
    (∀ rest, s.outside.pending = .step :: rest → step s = exec i (s.setPending rest))

/-- The command carried out is the oldest pending one, STEP where none is pending, and the rest stay pending (R35); no command but STEP draws a random
byte, and RESET leaves the whole record of the host. The pending list, the draws and what RESET does to them are the
model's choice (log 5, 18, 21). -/
def Obligations.StepCarriesOutTheOldestCommand : Prop :=
  (∀ (s : State) (c : Command) (rest : List Command), s.outside.pending = c :: rest →
    step s = runCommand c (s.setPending rest)) ∧
  (∀ s : State, s.outside.pending = [] → step s = runCommand .step s) ∧
  (∀ (c : Command) (s t : State), runCommand c s = .next t → t.outside.pending = s.outside.pending) ∧
  (∀ (c : Command) (s t : State), c ≠ .step → runCommand c s = .next t → t.outside.draws = s.outside.draws) ∧
  (∀ (s t : State), runCommand .reset s = .next t → t.outside = s.outside)

/-- Every instruction and every step answers a next state: nothing is refused and nothing stops (R226 makes a fault a
state; log 6). -/
def Obligations.EveryStepAnswersANextState : Prop :=
  (∀ (i : Instr) (s : State), ∃ t, exec i s = .next t) ∧ (∀ s : State, ∃ t, step s = .next t)

/-- A word placed by withFetchWord is the one the very next step runs (log 19). -/
def Obligations.PlacedWordRunsNext : Prop :=
  ∀ (s : State) (w : Word) (i : Instr), s.memWf = true → decodeWord s.params.jpV0Implemented w = .ok i →
    step (s.withFetchWord 16 w.toNat) = exec i (s.withFetchWord 16 w.toNat)

/-! ## Memory -/

/-- MemRead (R66) and MemWrite (R67): in bounds they read and write the byte, and no other byte; above 0xFFF they raise
MEM_OOB with the address, which is a natural number; and an instruction that faults has written nothing. That a write keeps
the canonical form of memory, and the premise that it has it, are the model's choice (log 20). -/
def Obligations.MemReadAndMemWrite : Prop :=
  (∀ (f : Font) (m : Memory) (a : Nat), a ≤ 0xFFF → memRead f m a = .ok (m.read f a)) ∧
  (∀ (f : Font) (m : Memory) (a : Nat), 0xFFF < a →
    ∃ t, memRead f m a = .error t ∧ t.cause = .memOob ∧ t.info = BitVec.ofNat 16 a) ∧
  (∀ (f : Font) (m : Memory) (a : Nat) (b : Byte), 0xFFF < a →
    ∃ t, memWrite f m a b = .error t ∧ t.cause = .memOob ∧ t.info = BitVec.ofNat 16 a) ∧
  (∀ (f : Font) (m : Memory) (a : Nat) (b : Byte), m.wf f = true → a ≤ 0xFFF →
    ∃ m', memWrite f m a b = .ok m' ∧ m'.wf f = true ∧ m'.read f a = b ∧ ∀ a', a' ≠ a → m'.read f a' = m.read f a') ∧
  (∀ (i : Instr) (s t : State), s.status = .running → exec i s = .next t → t.status = .faulted → t.mem = s.mem)

/-- Fetch16 (R68): its two bounds checks, its value, and the highest address it succeeds at; every instruction that goes
on without a jump leaves pc advanced by 2 (shown by NOP). -/
def Obligations.FetchIsBigEndianAndBounded : Prop :=
  (∀ (f : Font) (m : Memory) (a : Nat), 0xFFF < a →
    ∃ t, fetch16 f m a = .error t ∧ t.cause = .memOob ∧ t.info = BitVec.ofNat 16 a) ∧
  (∀ (f : Font) (m : Memory), ∃ t, fetch16 f m 0xFFF = .error t ∧ t.cause = .memOob ∧ t.info = 0x1000) ∧
  (∀ (f : Font) (m : Memory) (a : Nat), a ≤ 0xFFE →
    ∃ w, fetch16 f m a = .ok w ∧ w.toNat = (m.read f a).toNat * 256 + (m.read f (a + 1)).toNat) ∧
  (∀ (s : State), s.status = .running → s.outside.pending = [] → s.pc.toNat ≤ 0xFFE → fetchedWord s = 0 →
    ∃ t, step s = .next t ∧ t.pc.toNat = (s.pc.toNat + 2) % 2 ^ 16)

/-- What a bulk store writes is what the next fetch there reads (R72). -/
def Obligations.StoreIsSeenByTheNextFetch : Prop :=
  ∀ (x : Nibble) (s : State), s.memWf = true → s.idx.toNat + x.toNat ≤ 0xFFF →
    ∃ t, exec (.storeRegs x) s = .next t ∧
      ∀ k, k + 1 ≤ x.toNat →
        fetch16 t.params.font t.mem (s.idx.toNat + k) =
          .ok (wordOfBytes (s.getV (BitVec.ofNat 4 k)) (s.getV (BitVec.ofNat 4 (k + 1))))

/-! ## Control flow -/

/-- NOP (R121): the advance of pc and nothing else; only the word 0x0000 is NOP, and every other `0nnn` but CLS and RET is
illegal. -/
def Obligations.NopOnlyAdvances : Prop :=
  (∀ (jpV0 : Bool) (w : Word), decodeWord jpV0 w = .ok .nop ↔ w = 0x0000) ∧
  (∀ (jpV0 : Bool) (w : Word), opField w = 0x0 → w ≠ 0x0000 → w ≠ 0x00E0 → w ≠ 0x00EE →
    decodeWord jpV0 w = .error (.illegalOpcode w)) ∧
  ∀ s : State, ∃ t, exec .nop s = .next t ∧ t.pc = s.pc + 2 ∧ Frame [.pc] s t

/-- CLS (R122). -/
def Obligations.ClsClearsEveryPixel : Prop :=
  (∀ jpV0 : Bool, decodeWord jpV0 0x00E0 = .ok .cls) ∧
  ∀ s : State, ∃ t, exec .cls s = .next t ∧ (∀ x y, Display.pixel t.disp x y = false) ∧ t.pc = s.pc + 2 ∧
    Frame [.pc, .disp] s t

/-- RET (R123). -/
def Obligations.RetPopsOrUnderflows : Prop :=
  (∀ jpV0 : Bool, decodeWord jpV0 0x00EE = .ok .ret) ∧
  ∀ s : State,
    (s.sp.val = 0 → ∃ t, exec .ret s = .next t ∧ Latched .stackUnderflow 0 t ∧ Frame [.latch] s t) ∧
    (∀ h : 0 < s.sp.val, ∃ t, exec .ret s = .next t ∧ t.sp.val = s.sp.val - 1 ∧
      t.pc = s.stack[s.sp.val - 1]'(by have := s.sp.isLt; omega) ∧ t.stack = s.stack ∧ Frame [.pc, .stack] s t)

/-- JP nnn (R124): any 12-bit target; with its own address as target, at any number of steps, nothing changes at all. -/
def Obligations.JpGoesToItsTarget : Prop :=
  (∀ (jpV0 : Bool) (nnn : Addr12), decodeWord jpV0 (packNNN 0x1 nnn) = .ok (.jp nnn)) ∧
  (∀ (nnn : Addr12) (s : State), ∃ t, exec (.jp nnn) s = .next t ∧ t.pc.toNat = nnn.toNat ∧ Frame [.pc] s t) ∧
  (∀ (nnn : Addr12) (s : State), s.status = .running → s.outside.pending = [] → s.pc.toNat ≤ 0xFFE →
    fetchedWord s = packNNN 0x1 nnn → nnn.toNat = s.pc.toNat → ∀ k, runSteps k s = .next s)

/-- CALL nnn (R125). -/
def Obligations.CallPushesOrOverflows : Prop :=
  (∀ (jpV0 : Bool) (nnn : Addr12), decodeWord jpV0 (packNNN 0x2 nnn) = .ok (.call nnn)) ∧
  ∀ (nnn : Addr12) (s : State),
    (s.sp.val = 16 → ∃ t, exec (.call nnn) s = .next t ∧ Latched .stackOverflow 16 t ∧ Frame [.latch] s t) ∧
    (s.sp.val < 16 → ∃ t, exec (.call nnn) s = .next t ∧ t.pc.toNat = nnn.toNat ∧ t.sp.val = s.sp.val + 1 ∧
      (∀ (k : Nat) (h : k < 16), t.stack[k] = if k = s.sp.val then s.pc + 2 else s.stack[k]) ∧
      Frame [.pc, .stack] s t)

/-- SE Vx, kk (R126) and SNE Vx, kk (R127). -/
def Obligations.SkipsOnImmediate : Prop :=
  (∀ (jpV0 : Bool) (x : Nibble) (kk : Byte),
    decodeWord jpV0 (packXNN 0x3 x kk) = .ok (.seImm x kk) ∧ decodeWord jpV0 (packXNN 0x4 x kk) = .ok (.sneImm x kk)) ∧
  ∀ (x : Nibble) (kk : Byte) (s : State),
    (∃ t, exec (.seImm x kk) s = .next t ∧ t.pc = s.pc + (if s.getV x = kk then 4 else 2) ∧ Frame [.pc] s t) ∧
    (∃ t, exec (.sneImm x kk) s = .next t ∧ t.pc = s.pc + (if s.getV x = kk then 2 else 4) ∧ Frame [.pc] s t)

/-- SE Vx, Vy (R128) and SNE Vx, Vy (R129): class 5 equal, class 9 not equal. -/
def Obligations.SkipsOnRegister : Prop :=
  (∀ (jpV0 : Bool) (x y : Nibble),
    decodeWord jpV0 (packXYN 0x5 x y 0x0) = .ok (.seReg x y) ∧
    decodeWord jpV0 (packXYN 0x9 x y 0x0) = .ok (.sneReg x y)) ∧
  (∀ (jpV0 : Bool) (x y n : Nibble), n ≠ 0x0 →
    decodeWord jpV0 (packXYN 0x5 x y n) = .error (.illegalOpcode (packXYN 0x5 x y n)) ∧
    decodeWord jpV0 (packXYN 0x9 x y n) = .error (.illegalOpcode (packXYN 0x9 x y n))) ∧
  ∀ (x y : Nibble) (s : State),
    (∃ t, exec (.seReg x y) s = .next t ∧ t.pc = s.pc + (if s.getV x = s.getV y then 4 else 2) ∧ Frame [.pc] s t) ∧
    (∃ t, exec (.sneReg x y) s = .next t ∧ t.pc = s.pc + (if s.getV x = s.getV y then 2 else 4) ∧ Frame [.pc] s t)

/-- JP V0, nnn (R130): the sum is not reduced; with JP_V0_IMPLEMENTED false every `Bnnn` word raises ILLEGAL_OPCODE. -/
def Obligations.JpV0AddsV0 : Prop :=
  (∀ nnn : Addr12, decodeWord true (packNNN 0xB nnn) = .ok (.jpV0 nnn)) ∧
  (∀ (nnn : Addr12) (s : State), s.params.jpV0Implemented = false → s.status = .running → s.pc.toNat ≤ 0xFFE →
    fetchedWord s = packNNN 0xB nnn → ∃ t, stepCommand s = .next t ∧ Latched .illegalOpcode (packNNN 0xB nnn) t ∧ Frame [.latch] s t) ∧
  (∀ (nnn : Addr12) (s : State), ∃ t, exec (.jpV0 nnn) s = .next t ∧
    t.pc.toNat = nnn.toNat + (s.getV 0x0).toNat ∧ Frame [.pc] s t)

/-- After a CALL, a RET that finds the stack as the CALL left it goes on behind the CALL, at the depth before it (R123,
R125, R29). -/
def Obligations.RetUndoesCall : Prop :=
  ∀ (nnn : Addr12) (s t u : State), s.sp.val < 16 → exec (.call nnn) s = .next t → u.sp = t.sp → u.stack = t.stack →
    ∃ v, exec .ret u = .next v ∧ v.pc = s.pc + 2 ∧ v.sp = s.sp ∧
      ∀ (k : Nat) (h : k < 16), k < s.sp.val → v.stack[k] = s.stack[k]

/-! ## Arithmetic -/

/-- LD Vx, kk (R142) and ADD Vx, kk (R143): no flag. -/
def Obligations.ImmediateLoadAndAdd : Prop :=
  (∀ (jpV0 : Bool) (x : Nibble) (kk : Byte),
    decodeWord jpV0 (packXNN 0x6 x kk) = .ok (.ldImm x kk) ∧ decodeWord jpV0 (packXNN 0x7 x kk) = .ok (.addImm x kk)) ∧
  ∀ (x : Nibble) (kk : Byte) (s : State),
    (∃ t, exec (.ldImm x kk) s = .next t ∧ t.getV x = kk ∧ t.pc = s.pc + 2 ∧
      KeepsOtherRegisters [x] s t ∧ Frame [.pc, .v] s t) ∧
    (∃ t, exec (.addImm x kk) s = .next t ∧ (t.getV x).toNat = ((s.getV x).toNat + kk.toNat) % 256 ∧ t.pc = s.pc + 2 ∧
      KeepsOtherRegisters [x] s t ∧ Frame [.pc, .v] s t)

/-- LD Vx, Vy (R144), OR (R145), AND (R146), XOR (R147): no flag. -/
def Obligations.CopyAndLogic : Prop :=
  (∀ (jpV0 : Bool) (x y : Nibble),
    decodeWord jpV0 (packXYN 0x8 x y 0x0) = .ok (.ldReg x y) ∧ decodeWord jpV0 (packXYN 0x8 x y 0x1) = .ok (.orReg x y) ∧
    decodeWord jpV0 (packXYN 0x8 x y 0x2) = .ok (.andReg x y) ∧
    decodeWord jpV0 (packXYN 0x8 x y 0x3) = .ok (.xorReg x y)) ∧
  ∀ (x y : Nibble) (s : State),
    (∃ t, exec (.ldReg x y) s = .next t ∧ t.getV x = s.getV y ∧ t.pc = s.pc + 2 ∧
      KeepsOtherRegisters [x] s t ∧ Frame [.pc, .v] s t) ∧
    (∃ t, exec (.orReg x y) s = .next t ∧
      (∀ k, (t.getV x).getLsbD k = ((s.getV x).getLsbD k || (s.getV y).getLsbD k)) ∧ t.pc = s.pc + 2 ∧
      KeepsOtherRegisters [x] s t ∧ Frame [.pc, .v] s t) ∧
    (∃ t, exec (.andReg x y) s = .next t ∧
      (∀ k, (t.getV x).getLsbD k = ((s.getV x).getLsbD k && (s.getV y).getLsbD k)) ∧ t.pc = s.pc + 2 ∧
      KeepsOtherRegisters [x] s t ∧ Frame [.pc, .v] s t) ∧
    (∃ t, exec (.xorReg x y) s = .next t ∧
      (∀ k, (t.getV x).getLsbD k = ((s.getV x).getLsbD k ^^ (s.getV y).getLsbD k)) ∧ t.pc = s.pc + 2 ∧
      KeepsOtherRegisters [x] s t ∧ Frame [.pc, .v] s t)

/-- ADD Vx, Vy (R148): the sum modulo 256 and the carry in VF; with X = 0xF the carry stays and the sum is lost. -/
def Obligations.AddRegistersWithCarry : Prop :=
  (∀ (jpV0 : Bool) (x y : Nibble), decodeWord jpV0 (packXYN 0x8 x y 0x4) = .ok (.addReg x y)) ∧
  ∀ (x y : Nibble) (s : State), ∃ t, exec (.addReg x y) s = .next t ∧
    (x ≠ 0xF → (t.getV x).toNat = ((s.getV x).toNat + (s.getV y).toNat) % 256) ∧
    t.getV 0xF = (if (s.getV x).toNat + (s.getV y).toNat ≥ 256 then 1 else 0) ∧
    t.pc = s.pc + 2 ∧ KeepsOtherRegisters [x, 0xF] s t ∧ Frame [.pc, .v] s t

/-- SUB Vx, Vy (R149) and SUBN Vx, Vy (R150): VF is NOT borrow; with X = 0xF the flag stays. -/
def Obligations.SubtractBothWays : Prop :=
  (∀ (jpV0 : Bool) (x y : Nibble),
    decodeWord jpV0 (packXYN 0x8 x y 0x5) = .ok (.subReg x y) ∧
    decodeWord jpV0 (packXYN 0x8 x y 0x7) = .ok (.subnReg x y)) ∧
  ∀ (x y : Nibble) (s : State),
    (∃ t, exec (.subReg x y) s = .next t ∧
      (x ≠ 0xF → (t.getV x).toNat = ((s.getV x).toNat + 256 - (s.getV y).toNat) % 256) ∧
      t.getV 0xF = (if (s.getV x).toNat ≥ (s.getV y).toNat then 1 else 0) ∧
      t.pc = s.pc + 2 ∧ KeepsOtherRegisters [x, 0xF] s t ∧ Frame [.pc, .v] s t) ∧
    (∃ t, exec (.subnReg x y) s = .next t ∧
      (x ≠ 0xF → (t.getV x).toNat = ((s.getV y).toNat + 256 - (s.getV x).toNat) % 256) ∧
      t.getV 0xF = (if (s.getV y).toNat ≥ (s.getV x).toNat then 1 else 0) ∧
      t.pc = s.pc + 2 ∧ KeepsOtherRegisters [x, 0xF] s t ∧ Frame [.pc, .v] s t)

/-- SHR Vx (R151) and SHL Vx (R152): one bit, in place, every Y the same instruction, the bit shifted out in VF. -/
def Obligations.ShiftsByOneBit : Prop :=
  (∀ (jpV0 : Bool) (x y : Nibble),
    decodeWord jpV0 (packXYN 0x8 x y 0x6) = .ok (.shr x) ∧ decodeWord jpV0 (packXYN 0x8 x y 0xE) = .ok (.shl x)) ∧
  ∀ (x : Nibble) (s : State),
    (∃ t, exec (.shr x) s = .next t ∧ (x ≠ 0xF → (t.getV x).toNat = (s.getV x).toNat / 2) ∧
      (t.getV 0xF).toNat = (s.getV x).toNat % 2 ∧
      t.pc = s.pc + 2 ∧ KeepsOtherRegisters [x, 0xF] s t ∧ Frame [.pc, .v] s t) ∧
    (∃ t, exec (.shl x) s = .next t ∧ (x ≠ 0xF → (t.getV x).toNat = 2 * (s.getV x).toNat % 256) ∧
      (t.getV 0xF).toNat = (s.getV x).toNat / 128 ∧
      t.pc = s.pc + 2 ∧ KeepsOtherRegisters [x, 0xF] s t ∧ Frame [.pc, .v] s t)

/-- Right after a flag-writing instruction that did not fault VF is 0 or 1 (R22, R38). -/
def Obligations.FlagWritersLeaveABit : Prop :=
  ∀ (i : Instr) (s t : State), i.writesFlag = true → exec i s = .next t → t.status = .running →
    t.getV 0xF = 0 ∨ t.getV 0xF = 1

/-! ## Addressing -/

/-- LD I, nnn (R160) and LD F, Vx (R162). -/
def Obligations.IndexLoads : Prop :=
  (∀ (jpV0 : Bool) (nnn : Addr12), decodeWord jpV0 (packNNN 0xA nnn) = .ok (.ldI nnn)) ∧
  (∀ (jpV0 : Bool) (x : Nibble), decodeWord jpV0 (packXNN 0xF x 0x29) = .ok (.ldF x)) ∧
  (∀ (nnn : Addr12) (s : State), ∃ t, exec (.ldI nnn) s = .next t ∧ t.idx.toNat = nnn.toNat ∧ t.pc = s.pc + 2 ∧
    Frame [.pc, .idx] s t) ∧
  (∀ (x : Nibble) (s : State), ∃ t, exec (.ldF x) s = .next t ∧ t.idx.toNat = 5 * ((s.getV x).toNat % 16) ∧
    t.pc = s.pc + 2 ∧ Frame [.pc, .idx] s t)

/-- RND Vx, kk (R161): for every byte the draw may be, the destination is that byte masked by kk, so a bit that is 0 in
kk is 0 and the result is at most kk; the next RND draws the next byte. The draw is `Config.rnd`, which has no value
(log 5); counting draws is the model's own. -/
def Obligations.RndMasksAFreeByte : Prop :=
  (∀ (jpV0 : Bool) (x : Nibble) (kk : Byte), decodeWord jpV0 (packXNN 0xC x kk) = .ok (.rnd x kk)) ∧
  ∀ (x : Nibble) (kk : Byte) (s : State), ∃ t, exec (.rnd x kk) s = .next t ∧
    t.getV x = Config.rnd s.outside.draws &&& kk ∧ (∀ k, kk.getLsbD k = false → (t.getV x).getLsbD k = false) ∧
    (t.getV x).toNat ≤ kk.toNat ∧ t.pc = s.pc + 2 ∧ KeepsOtherRegisters [x] s t ∧
    t.outside = { s.outside with draws := s.outside.draws + 1 } ∧ Frame [.pc, .v, .outside] s t

/-! ## Display -/

/-- DRW Vx, Vy, n (R171, with the geometry of R170): in bounds, or with n = 0 wherever I points, exactly the pixels under a
1 bit flip, and VF is 1 just when one of them was on; out of bounds, MEM_OOB with the lowest such address and no other
change. -/
def Obligations.DrawFlipsTheCoveredPixels : Prop :=
  (∀ (jpV0 : Bool) (x y n : Nibble), decodeWord jpV0 (packXYN 0xD x y n) = .ok (.drw x y n)) ∧
  ∀ (x y n : Nibble) (s : State),
    ((n.toNat = 0 ∨ s.idx.toNat + n.toNat ≤ 0x1000) → ∃ t, exec (.drw x y n) s = .next t ∧
      (∀ px py, px < 64 → py < 32 →
        (SpriteCovers (spriteRows s n.toNat) (s.getV x).toNat (s.getV y).toNat px py →
          Display.pixel t.disp px py = !Display.pixel s.disp px py) ∧
        (¬ SpriteCovers (spriteRows s n.toNat) (s.getV x).toNat (s.getV y).toNat px py →
          Display.pixel t.disp px py = Display.pixel s.disp px py)) ∧
      ((∃ px py, px < 64 ∧ py < 32 ∧ Display.pixel s.disp px py = true ∧ Display.pixel t.disp px py = false) →
        t.getV 0xF = 1) ∧
      ((∀ px py, px < 64 → py < 32 → Display.pixel s.disp px py = true → Display.pixel t.disp px py = true) →
        t.getV 0xF = 0) ∧
      t.pc = s.pc + 2 ∧ KeepsOtherRegisters [0xF] s t ∧ Frame [.pc, .v, .disp] s t) ∧
    (n.toNat ≠ 0 → 0x1000 < s.idx.toNat + n.toNat → ∃ t, exec (.drw x y n) s = .next t ∧
      Latched .memOob (BitVec.ofNat 16 (max s.idx.toNat 0x1000)) t ∧ Frame [.latch] s t)

/-- Drawing the same sprite at the same place twice brings every pixel back, and the second collision flag is 1 when a 1
bit lands on a pixel that was off (R172 a, with the premise of C8); a sprite drawn at x = 63 wraps within its row (R172 b).
X and Y are not VF, which the first draw overwrites. -/
def Obligations.DrawTwiceRestoresAndWraps : Prop :=
  (∀ (x y n : Nibble) (s : State), x ≠ 0xF → y ≠ 0xF → (n.toNat = 0 ∨ s.idx.toNat + n.toNat ≤ 0x1000) →
    ∃ t u, exec (.drw x y n) s = .next t ∧ exec (.drw x y n) t = .next u ∧
      (∀ px py, Display.pixel u.disp px py = Display.pixel s.disp px py) ∧
      ((∃ px py, SpriteCovers (spriteRows s n.toNat) (s.getV x).toNat (s.getV y).toNat px py ∧
        Display.pixel s.disp px py = false) → u.getV 0xF = 1)) ∧
  (∀ (x y n : Nibble) (s : State), 1 ≤ n.toNat → s.idx.toNat + n.toNat ≤ 0x1000 → (s.getV x).toNat % 64 = 63 →
    (∀ px py, Display.pixel s.disp px py = false) →
    ∃ t, exec (.drw x y n) s = .next t ∧
      ∀ c, c < 8 → (s.byteAt s.idx.toNat).getLsbD (7 - c) = true →
        Display.pixel t.disp (if c = 0 then 63 else c - 1) ((s.getV y).toNat % 32) = true)

/-! ## Input -/

/-- SKP Vx (R180) and SKNP Vx (R181), and their fault above 15 (R227). -/
def Obligations.KeySkips : Prop :=
  (∀ (jpV0 : Bool) (x : Nibble),
    decodeWord jpV0 (packXNN 0xE x 0x9E) = .ok (.skp x) ∧ decodeWord jpV0 (packXNN 0xE x 0xA1) = .ok (.sknp x)) ∧
  ∀ (x : Nibble) (s : State),
    (∀ k : Nibble, (s.getV x).toNat = k.toNat →
      (∃ t, exec (.skp x) s = .next t ∧ t.pc = s.pc + (if s.getKey k = true then 4 else 2) ∧ Frame [.pc] s t) ∧
      (∃ t, exec (.sknp x) s = .next t ∧ t.pc = s.pc + (if s.getKey k = true then 2 else 4) ∧ Frame [.pc] s t)) ∧
    (15 < (s.getV x).toNat →
      (∃ t, exec (.skp x) s = .next t ∧ Latched .keyIndexRange (BitVec.ofNat 16 (s.getV x).toNat) t ∧
        Frame [.latch] s t) ∧
      (∃ t, exec (.sknp x) s = .next t ∧ Latched .keyIndexRange (BitVec.ofNat 16 (s.getV x).toNat) t ∧
        Frame [.latch] s t))

/-- LD Vx, K (R182): the least pressed key, or, with none pressed, a step with no net effect. -/
def Obligations.KeyWaitTakesTheLowestKey : Prop :=
  (∀ (jpV0 : Bool) (x : Nibble), decodeWord jpV0 (packXNN 0xF x 0x0A) = .ok (.ldKey x)) ∧
  (∀ (x k : Nibble) (s : State), s.getKey k = true → (∀ j : Nibble, j.toNat < k.toNat → s.getKey j = false) →
    ∃ t, exec (.ldKey x) s = .next t ∧ (t.getV x).toNat = k.toNat ∧ t.pc = s.pc + 2 ∧
      KeepsOtherRegisters [x] s t ∧ Frame [.pc, .v] s t) ∧
  (∀ (x : Nibble) (s : State), (∀ k, s.getKey k = false) → exec (.ldKey x) s = .next s)

/-! ## Timers -/

/-- LD Vx, DT (R190), LD DT, Vx (R191), LD ST, Vx (R192). -/
def Obligations.TimerMoves : Prop :=
  (∀ (jpV0 : Bool) (x : Nibble),
    decodeWord jpV0 (packXNN 0xF x 0x07) = .ok (.ldFromDt x) ∧ decodeWord jpV0 (packXNN 0xF x 0x15) = .ok (.ldDt x) ∧
    decodeWord jpV0 (packXNN 0xF x 0x18) = .ok (.ldSt x)) ∧
  ∀ (x : Nibble) (s : State),
    (∃ t, exec (.ldFromDt x) s = .next t ∧ t.getV x = s.dt ∧ t.pc = s.pc + 2 ∧ KeepsOtherRegisters [x] s t ∧
      Frame [.pc, .v] s t) ∧
    (∃ t, exec (.ldDt x) s = .next t ∧ t.dt = s.getV x ∧ t.pc = s.pc + 2 ∧ Frame [.pc, .dt] s t) ∧
    (∃ t, exec (.ldSt x) s = .next t ∧ t.st = s.getV x ∧ t.pc = s.pc + 2 ∧ Frame [.pc, .st] s t)

/-! ## Index arithmetic, BCD store, bulk store and load -/

/-- ADD I, Vx (R200): 16-bit wraparound, no flag. -/
def Obligations.AddToIndexWraps : Prop :=
  (∀ (jpV0 : Bool) (x : Nibble), decodeWord jpV0 (packXNN 0xF x 0x1E) = .ok (.addI x)) ∧
  ∀ (x : Nibble) (s : State), ∃ t, exec (.addI x) s = .next t ∧
    t.idx.toNat = (s.idx.toNat + (s.getV x).toNat) % 2 ^ 16 ∧ t.pc = s.pc + 2 ∧ Frame [.pc, .idx] s t

/-- LD B, Vx (R201): hundreds, tens, ones at I, I + 1, I + 2, every other byte as it was; out of bounds nothing is
written. -/
def Obligations.BcdStoresThreeDigits : Prop :=
  (∀ (jpV0 : Bool) (x : Nibble), decodeWord jpV0 (packXNN 0xF x 0x33) = .ok (.ldB x)) ∧
  ∀ (x : Nibble) (s : State),
    (s.memWf = true → s.idx.toNat + 2 ≤ 0xFFF → ∃ t, exec (.ldB x) s = .next t ∧
      (t.byteAt s.idx.toNat).toNat = (s.getV x).toNat / 100 ∧
      (t.byteAt (s.idx.toNat + 1)).toNat = (s.getV x).toNat / 10 % 10 ∧
      (t.byteAt (s.idx.toNat + 2)).toNat = (s.getV x).toNat % 10 ∧
      (∀ a, (a < s.idx.toNat ∨ s.idx.toNat + 2 < a) → t.byteAt a = s.byteAt a) ∧
      t.pc = s.pc + 2 ∧ Frame [.pc, .mem] s t) ∧
    (0xFFF < s.idx.toNat + 2 → ∃ t, exec (.ldB x) s = .next t ∧
      Latched .memOob (BitVec.ofNat 16 (max s.idx.toNat 0x1000)) t ∧ Frame [.latch] s t)

/-- LD [I], Vx (R202): V0 to VX at I to I + X, every other byte as it was; out of bounds nothing is written. -/
def Obligations.BulkStoreWritesTheRange : Prop :=
  (∀ (jpV0 : Bool) (x : Nibble), decodeWord jpV0 (packXNN 0xF x 0x55) = .ok (.storeRegs x)) ∧
  ∀ (x : Nibble) (s : State),
    (s.memWf = true → s.idx.toNat + x.toNat ≤ 0xFFF → ∃ t, exec (.storeRegs x) s = .next t ∧
      (∀ r : Nibble, r.toNat ≤ x.toNat → t.byteAt (s.idx.toNat + r.toNat) = s.getV r) ∧
      (∀ a, (a < s.idx.toNat ∨ s.idx.toNat + x.toNat < a) → t.byteAt a = s.byteAt a) ∧
      t.pc = s.pc + 2 ∧ Frame [.pc, .mem] s t) ∧
    (0xFFF < s.idx.toNat + x.toNat → ∃ t, exec (.storeRegs x) s = .next t ∧
      Latched .memOob (BitVec.ofNat 16 (max s.idx.toNat 0x1000)) t ∧ Frame [.latch] s t)

/-- LD Vx, [I] (R203): V0 to VX from I to I + X, the registers above as they were; out of bounds no register is written. -/
def Obligations.BulkLoadReadsTheRange : Prop :=
  (∀ (jpV0 : Bool) (x : Nibble), decodeWord jpV0 (packXNN 0xF x 0x65) = .ok (.loadRegs x)) ∧
  ∀ (x : Nibble) (s : State),
    (s.idx.toNat + x.toNat ≤ 0xFFF → ∃ t, exec (.loadRegs x) s = .next t ∧
      (∀ r : Nibble, t.getV r = if r.toNat ≤ x.toNat then s.byteAt (s.idx.toNat + r.toNat) else s.getV r) ∧
      t.pc = s.pc + 2 ∧ Frame [.pc, .v] s t) ∧
    (0xFFF < s.idx.toNat + x.toNat → ∃ t, exec (.loadRegs x) s = .next t ∧
      Latched .memOob (BitVec.ofNat 16 (max s.idx.toNat 0x1000)) t ∧ Frame [.latch] s t)

/-- A bulk load with the X and I of an earlier bulk store brings back the registers that were stored, whatever the
registers hold by then (R202, R203). -/
def Obligations.BulkLoadUndoesBulkStore : Prop :=
  ∀ (x : Nibble) (s t u : State), s.memWf = true → s.idx.toNat + x.toNat ≤ 0xFFF →
    exec (.storeRegs x) s = .next t → (∀ a, u.byteAt a = t.byteAt a) → u.idx = s.idx →
    ∃ v, exec (.loadRegs x) u = .next v ∧ ∀ r : Nibble, r.toNat ≤ x.toNat → v.getV r = s.getV r

/-! ## Whole-machine rules -/

/-- Every register but those an instruction writes is as it was: VF is written as a flag by six instructions alone
(R22). -/
def Obligations.OnlyDestinationRegistersChange : Prop :=
  ∀ (i : Instr) (s t : State), exec i s = .next t → KeepsOtherRegisters i.writtenRegs s t

/-- What each instruction may write: it faults with everything but the latch as it was, or it changes at most its own
parts, so the display changes only by CLS and DRW (R28), the stack by CALL and RET (R29), I by LD I, LD F and ADD I (R25),
DT and ST by LD DT and LD ST (R31), memory by LD B and LD [I] (R60), and no key, ever (R30). -/
def Obligations.OnlyTheNamedPartsChange : Prop :=
  ∀ (i : Instr) (s t : State), exec i s = .next t →
    (t.status = .faulted ∧ Frame [.latch] s t) ∨ Frame i.writtenParts s t

/-- No instruction but RND depends on the model's record of the host, and none but RND changes it (R161; log 5, 18). -/
def Obligations.HostRecordDoesNotInterfere : Prop :=
  ∀ (i : Instr) (s t : State) (o : Outside), (∀ x kk, i ≠ .rnd x kk) → exec i s = .next t →
    exec i { s with outside := o } = .next { t with outside := o }

/-- The invariants of R38 and the canonical form of memory hold at reset, whatever the parameters. -/
def Obligations.InvariantHoldsAtReset : Prop := (∀ p : Params, Inv (State.resetWith p)) ∧ Inv State.reset

/-- Every step, whatever command it carries out, keeps them: memory canonical, pc ≤ 0x10FE with every return address at
most 0x1000, the latch consistent (R24, R38, R221). -/
def Obligations.EveryStepKeepsTheInvariant : Prop :=
  ∀ s t : State, Inv s → step s = .next t → Inv t

/-- Every step keeps the canonical form of memory, from any state that has it. -/
def Obligations.EveryStepKeepsMemoryCanonical : Prop :=
  ∀ s t : State, s.memWf = true → step s = .next t → t.memWf = true

/-! ## Faults -/

/-- A STEP in RUNNING, whatever is pending behind it, faults exactly as the table of R221 says, in the order of R229, with
the cause numbers of the table, and the fault is precise (R226); where the table has no fault the machine stays in RUNNING;
no other command faults. That the machine's step is this STEP when nothing is pending is the model's choice (log 18). -/
def Obligations.FaultsAreExactlyTheTable : Prop :=
  ([FaultCause.none, .memOob, .illegalOpcode, .stackOverflow, .stackUnderflow, .keyIndexRange].map FaultCause.code =
    [0, 1, 2, 3, 4, 5]) ∧
  (∀ s : State, s.status = .running →
    (s.outside.pending = [] → step s = runCommand .step s) ∧
    (∀ trap, stepFault s = some trap →
      ∃ t, runCommand .step s = .next t ∧ Latched trap.cause trap.info t ∧ Frame [.latch] s t) ∧
    (stepFault s = none →
      ∃ t, runCommand .step s = .next t ∧ t.status = .running ∧ t.cause = s.cause ∧ t.info = s.info)) ∧
  (∀ (c : Command) (s t : State), c ≠ .step → s.status = .running → runCommand c s = .next t → t.status = .running)

/-- Fault entry (R226): whatever a STEP that faults was going to write, every register, the pc, I, memory, the display, the
stack, the timers and the keys hold what they held before it, as data. -/
def Obligations.FaultsArePrecise : Prop :=
  ∀ s t : State, s.status = .running → stepCommand s = .next t → t.status = .faulted →
    t = { s with status := .faulted, cause := t.cause, info := t.info } ∧ t.cause ≠ .none

/-- A fault is kept until RESET, which clears it (R231). -/
def Obligations.FaultIsKeptUntilReset : Prop :=
  ∀ s t : State, s.status = .faulted → step s = .next t →
    ((∀ rest, s.outside.pending ≠ .reset :: rest) → t.status = .faulted ∧ t.cause = s.cause ∧ t.info = s.info) ∧
    (∀ rest, s.outside.pending = .reset :: rest → t.status = .running ∧ t.cause = .none ∧ t.info = 0)

/-- In FAULTED a STEP has no effect at all, TICK, SET_KEY, LOAD and the readout do what they do in RUNNING and leave the
latch, and RESET clears it (R232). -/
def Obligations.CommandsInFaulted : Prop :=
  (∀ s : State, s.status = .faulted → stepCommand s = .next s) ∧
  (∀ (c : Command) (s t : State) (trap : Trap), c ≠ .step → c ≠ .reset → runCommand c s = .next t →
    runCommand c (s.enterFault trap) = .next (t.enterFault trap)) ∧
  (∀ s : State, s.status = .faulted → ∃ t, runCommand .reset s = .next t ∧ t.status = .running ∧ t.cause = .none ∧
    t.info = 0)

/-! ## Commands -/

/-- The reset state has the value of every row of the table (R34), for every FONT and, with the default one, as State.reset.
The host's record, the model's own, is not in it. -/
def Obligations.ResetStateIsTheTable : Prop :=
  (∀ p : Params, AtReset p.font (State.resetWith p)) ∧ AtReset Config.font State.reset

/-- RESET, in any state of a machine with any FONT, leaves every piece of state at its value of R34 (R260). -/
def Obligations.ResetRestoresEverything : Prop :=
  ∀ s : State, ∃ t, runCommand .reset s = .next t ∧ AtReset s.params.font t

/-- TICK (R241): both timers count down with a floor at 0, and the answer is whether ST was above 0 before. -/
def Obligations.TickCountsDownAndAnswers : Prop :=
  ∀ s : State, ∃ t, runCommand .tick s = .next t ∧
    t.dt.toNat = s.dt.toNat - 1 ∧ t.st.toNat = s.st.toNat - 1 ∧
    t.outside.reply = .tone (decide (s.st.toNat > 0)) ∧ Frame [.dt, .st, .outside] s t

/-- With n in ST and no further write, the next n TICKs report the tone and all later ones do not (R241), and neither timer
passes below 0 (R31, R38). -/
def Obligations.ToneForExactlyNTicks : Prop :=
  ∀ (s : State) (k : Nat), (afterTicks k s).st.toNat = s.st.toNat - k ∧ (afterTicks k s).dt.toNat = s.dt.toNat - k ∧
    (afterTicks (k + 1) s).outside.reply = .tone (decide (k < s.st.toNat))

/-- SET_KEY (R243). -/
def Obligations.SetKeyOverwritesOneKey : Prop :=
  ∀ (k : Nibble) (pressed : Bool) (s : State), ∃ t, runCommand (.setKey k pressed) s = .next t ∧
    t.getKey k = pressed ∧ (∀ j, j ≠ k → t.getKey j = s.getKey j) ∧ Frame [.keys] s t

/-- LOAD (R263): an image that fits is written from 0x200 upward and no other byte changes; one that does not fit writes
nothing and the host is told. That a LOAD which fits answers `loaded`, and where the answers stand, is the model's choice (log
16): R263 reports a refusal only. -/
def Obligations.LoadWritesTheImage : Prop :=
  ∀ (image : List Byte) (s : State),
    (s.memWf = true → image.length ≤ 3584 → ∃ t, runCommand (.load image) s = .next t ∧
      (∀ (k : Nat) (h : k < image.length), t.byteAt (0x200 + k) = image[k]) ∧
      (∀ a, (a < 0x200 ∨ 0x200 + image.length ≤ a) → t.byteAt a = s.byteAt a) ∧
      t.outside.reply = .loaded ∧ Frame [.mem, .outside] s t) ∧
    (3584 < image.length → ∃ t, runCommand (.load image) s = .next t ∧
      t.outside.reply = .loadRefused ∧ Frame [.outside] s t)

/-- The display readout (R36): 2048 pixels, row-major, in any state, and nothing changes. -/
def Obligations.ReadoutIsRowMajor : Prop :=
  ∀ s : State, ∃ t d, runCommand .readout s = .next t ∧ t.outside.reply = .pixels d ∧
    d.length = 2048 ∧ (∀ x y, x < 64 → y < 32 → d[x + 64 * y]? = some (Display.pixel s.disp x y)) ∧
    Frame [.outside] s t

/-! ## Runs -/

/-- Running off the end (R272): with nothing but zero bytes from pc to the end of memory, n NOPs take pc to 0x1000, and the
STEP after them faults with MEM_OOB, info 0x1000, at pc = 0x1000. From reset with no image n is 1792. -/
def Obligations.RunningOffTheEndFaults : Prop :=
  ∀ (n : Nat) (s : State), s.status = .running → s.outside.pending = [] → s.pc.toNat + 2 * n = 0x1000 →
    (∀ a, s.pc.toNat ≤ a → a < 0x1000 → s.byteAt a = 0) →
    runSteps n s = .next { s with pc := 0x1000 } ∧
    runSteps (n + 1) s = .next { s with pc := 0x1000, status := .faulted, cause := .memOob, info := 0x1000 }

/-! ## Parameters -/

/-- FONT and JP_V0_IMPLEMENTED are arguments of the machine (R7): a machine built with `p` has `p`, and no step, whatever
command it carries out, changes them; a byte that nothing has written reads as FONT has it; and a STEP decodes by
JP_V0_IMPLEMENTED. That they stand in State is the model's choice (log 30). -/
def Obligations.ParametersAreFixedArguments : Prop :=
  (∀ p : Params, (State.resetWith p).params = p) ∧
  (∀ s t : State, step s = .next t → t.params = s.params) ∧
  (∀ (p : Params) (a : Nat) (h : a < 80), (State.resetWith p).byteAt a = p.font[a]) ∧
  (∀ (s : State) (i : Instr), s.status = .running → s.pc.toNat ≤ 0xFFE →
    decodeWord s.params.jpV0Implemented (fetchedWord s) = .ok i → stepCommand s = exec i s)
end

