-- ==== Sys2Proof/Laws/Decode.lean ====
section
/-! SUPPORT. The fields of a packed word, a word from its bytes, and how decoding goes once the op-class is known. -/

namespace Sys2Proof

theorem toNat_packXYN (op x y n : Nibble) :
    (packXYN op x y n).toNat = op.toNat * 4096 + x.toNat * 256 + y.toNat * 16 + n.toNat := by
  have h1 := x.isLt
  have h2 := y.isLt
  have h3 := n.isLt
  simp only [packXYN, BitVec.toNat_append]
  rw [← Nat.shiftLeft_add_eq_or_of_lt (by omega), ← Nat.shiftLeft_add_eq_or_of_lt (by omega),
    ← Nat.shiftLeft_add_eq_or_of_lt (by omega)]
  simp only [Nat.shiftLeft_eq]
  omega

theorem toNat_packXNN (op x : Nibble) (nn : Byte) :
    (packXNN op x nn).toNat = op.toNat * 4096 + x.toNat * 256 + nn.toNat := by
  have h1 := x.isLt
  have h2 := nn.isLt
  simp only [packXNN, BitVec.toNat_append]
  rw [← Nat.shiftLeft_add_eq_or_of_lt (by omega), ← Nat.shiftLeft_add_eq_or_of_lt (by omega)]
  simp only [Nat.shiftLeft_eq]
  omega

theorem toNat_packNNN (op : Nibble) (nnn : Addr12) : (packNNN op nnn).toNat = op.toNat * 4096 + nnn.toNat := by
  have h1 := nnn.isLt
  simp only [packNNN, BitVec.toNat_append]
  rw [← Nat.shiftLeft_add_eq_or_of_lt (by omega)]
  simp only [Nat.shiftLeft_eq]

/-! ### A field as arithmetic on the word (30_encoding R91) -/

theorem toNat_opField (w : Word) : (opField w).toNat = w.toNat / 4096 % 16 := by
  simp [opField, BitVec.extractLsb'_toNat, Nat.shiftRight_eq_div_pow]
theorem toNat_xField (w : Word) : (xField w).toNat = w.toNat / 256 % 16 := by
  simp [xField, BitVec.extractLsb'_toNat, Nat.shiftRight_eq_div_pow]
theorem toNat_yField (w : Word) : (yField w).toNat = w.toNat / 16 % 16 := by
  simp [yField, BitVec.extractLsb'_toNat, Nat.shiftRight_eq_div_pow]
theorem toNat_nField (w : Word) : (nField w).toNat = w.toNat % 16 := by
  simp [nField, BitVec.extractLsb'_toNat]
theorem toNat_nnField (w : Word) : (nnField w).toNat = w.toNat % 256 := by
  simp [nnField, BitVec.extractLsb'_toNat]
theorem toNat_nnnField (w : Word) : (nnnField w).toNat = w.toNat % 4096 := by
  simp [nnnField, BitVec.extractLsb'_toNat]

/-- A word is its four nibbles. -/
theorem packXYN_fields (w : Word) : packXYN (opField w) (xField w) (yField w) (nField w) = w := by
  apply BitVec.eq_of_toNat_eq
  have := w.isLt
  rw [toNat_packXYN, toNat_opField, toNat_xField, toNat_yField, toNat_nField]
  omega

/-- A word is its op-class, its X and its low byte. -/
theorem packXNN_fields (w : Word) : packXNN (opField w) (xField w) (nnField w) = w := by
  apply BitVec.eq_of_toNat_eq
  have := w.isLt
  rw [toNat_packXNN, toNat_opField, toNat_xField, toNat_nnField]
  omega

/-- A word is its op-class and its address. -/
theorem packNNN_fields (w : Word) : packNNN (opField w) (nnnField w) = w := by
  apply BitVec.eq_of_toNat_eq
  have := w.isLt
  rw [toNat_packNNN, toNat_opField, toNat_nnnField]
  omega

/-- NN is Y and N (30_encoding R91). -/
theorem nnField_eq (w : Word) : nnField w = yField w ++ nField w := by
  apply BitVec.eq_of_toNat_eq
  have h := (nField w).isLt
  rw [BitVec.toNat_append, ← Nat.shiftLeft_add_eq_or_of_lt (by omega), toNat_nnField, toNat_yField, toNat_nField,
    Nat.shiftLeft_eq]
  omega

/-! ### The fields of a packed word -/

@[simp] theorem opField_packXYN (op x y n : Nibble) : opField (packXYN op x y n) = op := by
  apply BitVec.eq_of_toNat_eq
  have h_op := op.isLt
  have h_x := x.isLt
  have h_y := y.isLt
  have h_n := n.isLt
  rw [toNat_opField, toNat_packXYN]
  omega

@[simp] theorem xField_packXYN (op x y n : Nibble) : xField (packXYN op x y n) = x := by
  apply BitVec.eq_of_toNat_eq
  have h_op := op.isLt
  have h_x := x.isLt
  have h_y := y.isLt
  have h_n := n.isLt
  rw [toNat_xField, toNat_packXYN]
  omega

@[simp] theorem yField_packXYN (op x y n : Nibble) : yField (packXYN op x y n) = y := by
  apply BitVec.eq_of_toNat_eq
  have h_op := op.isLt
  have h_x := x.isLt
  have h_y := y.isLt
  have h_n := n.isLt
  rw [toNat_yField, toNat_packXYN]
  omega

@[simp] theorem nField_packXYN (op x y n : Nibble) : nField (packXYN op x y n) = n := by
  apply BitVec.eq_of_toNat_eq
  have h_op := op.isLt
  have h_x := x.isLt
  have h_y := y.isLt
  have h_n := n.isLt
  rw [toNat_nField, toNat_packXYN]
  omega

@[simp] theorem opField_packXNN (op x : Nibble) (nn : Byte) : opField (packXNN op x nn) = op := by
  apply BitVec.eq_of_toNat_eq
  have h_op := op.isLt
  have h_x := x.isLt
  have h_nn := nn.isLt
  rw [toNat_opField, toNat_packXNN]
  omega

@[simp] theorem xField_packXNN (op x : Nibble) (nn : Byte) : xField (packXNN op x nn) = x := by
  apply BitVec.eq_of_toNat_eq
  have h_op := op.isLt
  have h_x := x.isLt
  have h_nn := nn.isLt
  rw [toNat_xField, toNat_packXNN]
  omega

@[simp] theorem nnField_packXNN (op x : Nibble) (nn : Byte) : nnField (packXNN op x nn) = nn := by
  apply BitVec.eq_of_toNat_eq
  have h_op := op.isLt
  have h_x := x.isLt
  have h_nn := nn.isLt
  rw [toNat_nnField, toNat_packXNN]
  omega

@[simp] theorem opField_packNNN (op : Nibble) (nnn : Addr12) : opField (packNNN op nnn) = op := by
  apply BitVec.eq_of_toNat_eq
  have h_op := op.isLt
  have h_nnn := nnn.isLt
  rw [toNat_opField, toNat_packNNN]
  omega

@[simp] theorem nnnField_packNNN (op : Nibble) (nnn : Addr12) : nnnField (packNNN op nnn) = nnn := by
  apply BitVec.eq_of_toNat_eq
  have h_op := op.isLt
  have h_nnn := nnn.isLt
  rw [toNat_nnnField, toNat_packNNN]
  omega

@[simp] theorem yField_packXNN (op x : Nibble) (nn : Byte) : yField (packXNN op x nn) = nn.extractLsb' 4 4 := by
  apply BitVec.eq_of_toNat_eq
  have h1 := op.isLt
  have h2 := x.isLt
  have h3 := nn.isLt
  rw [toNat_yField, toNat_packXNN, BitVec.extractLsb'_toNat, Nat.shiftRight_eq_div_pow]
  omega

@[simp] theorem nField_packXNN (op x : Nibble) (nn : Byte) : nField (packXNN op x nn) = nn.extractLsb' 0 4 := by
  apply BitVec.eq_of_toNat_eq
  have h1 := op.isLt
  have h2 := x.isLt
  have h3 := nn.isLt
  rw [toNat_nField, toNat_packXNN, BitVec.extractLsb'_toNat]
  simp only [Nat.shiftRight_zero]
  omega

/-! ### A word and its bytes (20_memory R62) -/

theorem toNat_wordOfBytes (b0 b1 : Byte) : (wordOfBytes b0 b1).toNat = b0.toNat * 256 + b1.toNat := by
  have h := b1.isLt
  simp only [wordOfBytes, BitVec.toNat_append]
  rw [← Nat.shiftLeft_add_eq_or_of_lt (by omega), Nat.shiftLeft_eq]

@[simp] theorem wordOfBytes_high_low (w : Word) : wordOfBytes (highByte w) (lowByte w) = w := by
  apply BitVec.eq_of_toNat_eq
  have h := w.isLt
  rw [toNat_wordOfBytes]
  simp only [highByte, lowByte, BitVec.extractLsb'_toNat, Nat.shiftRight_eq_div_pow]
  omega

/-- Decoding the two bytes of a word is decoding the word. -/
theorem decode_bytes (jpV0 : Bool) (w : Word) (rest : List Byte) :
    decode jpV0 (highByte w :: lowByte w :: rest) = (decodeWord jpV0 w).map fun i => (i, rest) := by
  simp only [decode, wordOfBytes_high_low]
  cases decodeWord jpV0 w <;> rfl

end Sys2Proof
end

