-- ==== Sys2Proof/Laws/Display.lean ====
section
/-! SUPPORT. The laws of the display: one pixel after a toggle or a clear, equality by pixels (spec 10_state R28,
43_display R171). -/

namespace Sys2Proof.Machine

/-- A toggle flips its own pixel and leaves every other one. -/
theorem Display.pixel_toggle (d : Display) {x y : Nat} (hx : x < 64) (hy : y < 32) (x' y' : Nat) :
    Display.pixel (Display.toggle d x y) x' y' = (Display.pixel d x' y' ^^ (decide (x' = x ∧ y' = y))) := by
  simp only [Display.pixel, Display.toggle, dif_pos hy]
  by_cases h : y' < 32
  · simp only [dif_pos h, Vector.getElem_set]
    by_cases e : y' = y
    · subst e
      by_cases ex : x' = x
      · subst ex; simp [hx]
      · simp [BitVec.getLsbD_xor, BitVec.getLsbD_twoPow, ex, Ne.symm ex]
    · simp [e, Ne.symm e]
  · simp [h, show y' ≠ y by omega]

@[simp] theorem Display.pixel_clear (x y : Nat) : Display.pixel Display.clear x y = false := by
  by_cases h : y < 32 <;> simp [Display.pixel, Display.clear, h]

theorem Display.pixel_of_ge (d : Display) {x y : Nat} (h : ¬ (x < 64 ∧ y < 32)) : Display.pixel d x y = false := by
  by_cases hy : y < 32
  · simp only [Display.pixel, dif_pos hy]
    exact BitVec.getLsbD_of_ge _ _ (by omega)
  · simp [Display.pixel, hy]

/-- Displays with the same pixels are the same. -/
theorem Display.ext {d d' : Display} (h : ∀ x y, Display.pixel d x y = Display.pixel d' x y) : d = d' := by
  apply Vector.ext
  intro y hy
  apply BitVec.eq_of_getLsbD_eq
  intro x _
  have := h x y
  simpa [Display.pixel, hy] using this

/-- The readout is the 2048 pixels in row-major order (R36). -/
theorem Display.readout_length (d : Display) : (Display.readout d).length = 2048 := by
  simp [Display.readout]

theorem Display.readout_getElem (d : Display) (k : Nat) (h : k < (Display.readout d).length) :
    (Display.readout d)[k] = Display.pixel d (k % 64) (k / 64) := by
  simp [Display.readout]

/-! ## Drawing a sprite (43_display R170, R171) -/

/-- Some 1 bit of the columns c to c + n - 1 of `row`, drawn at (x0, y), lands on (px, py). -/
def RowCovers (x0 y : Nat) (row : Byte) (c n px py : Nat) : Prop :=
  py = y ∧ ∃ c', c ≤ c' ∧ c' < c + n ∧ spriteBit row c' = true ∧ px = (x0 + c') % 64

/-- `SpriteCovers` for the rows from the `r0`-th on. -/
def RowsCover (x0 y0 r0 : Nat) (rows : List Byte) (px py : Nat) : Prop :=
  ∃ (r c : Nat) (h : r < rows.length), c < 8 ∧ rows[r].getLsbD (7 - c) = true ∧
    px = (x0 + c) % 64 ∧ py = (y0 + (r0 + r)) % 32

/-- What drawing at the pixels of `covers` does: each is flipped once, and the collision bit tells whether one was on. -/
def Draws (covers : Nat → Nat → Prop) (before after : Display × Bool) : Prop :=
  (∀ px py, (covers px py → Display.pixel after.1 px py = !Display.pixel before.1 px py) ∧
    (¬ covers px py → Display.pixel after.1 px py = Display.pixel before.1 px py)) ∧
  (after.2 = true ↔ before.2 = true ∨ ∃ px py, covers px py ∧ Display.pixel before.1 px py = true)

/-- Drawing nowhere does nothing. -/
theorem Draws.none {cov : Nat → Nat → Prop} (h : ∀ px py, ¬ cov px py) (acc : Display × Bool) : Draws cov acc acc :=
  ⟨fun px py => ⟨fun hc => absurd hc (h px py), fun _ => rfl⟩,
    .inl, fun h' => h'.elim id fun ⟨px, py, hc, _⟩ => absurd hc (h px py)⟩

/-- Two drawings at different pixels are one drawing at all of them. -/
theorem Draws.trans {cov cov' all : Nat → Nat → Prop} {a b c : Display × Bool} (h : Draws cov a b) (h' : Draws cov' b c)
    (hall : ∀ px py, all px py ↔ cov px py ∨ cov' px py) (hdis : ∀ px py, cov px py → ¬ cov' px py) : Draws all a c := by
  refine ⟨fun px py => ⟨fun hc => ?_, fun hc => ?_⟩, ?_⟩
  · rcases (hall px py).mp hc with h1 | h1
    · rw [(h'.1 px py).2 (hdis px py h1), (h.1 px py).1 h1]
    · rw [(h'.1 px py).1 h1, (h.1 px py).2 fun h2 => hdis px py h2 h1]
  · rw [hall, not_or] at hc
    rw [(h'.1 px py).2 hc.2, (h.1 px py).2 hc.1]
  · rw [h'.2, h.2]
    constructor
    · rintro ((h1 | ⟨px, py, h1, h2⟩) | ⟨px, py, h1, h2⟩)
      · exact .inl h1
      · exact .inr ⟨px, py, (hall px py).mpr (.inl h1), h2⟩
      · rw [(h.1 px py).2 fun h3 => hdis px py h3 h1] at h2
        exact .inr ⟨px, py, (hall px py).mpr (.inr h1), h2⟩
    · rintro (h1 | ⟨px, py, h1, h2⟩)
      · exact .inl (.inl h1)
      · rcases (hall px py).mp h1 with h3 | h3
        · exact .inl (.inr ⟨px, py, h3, h2⟩)
        · exact .inr ⟨px, py, h3, by rw [(h.1 px py).2 fun h4 => hdis px py h4 h3]; exact h2⟩

/-- One set bit draws one pixel. -/
theorem drawPixel_draws (acc : Display × Bool) {x y : Nat} (hx : x < 64) (hy : y < 32) :
    Draws (fun px py => px = x ∧ py = y) acc (drawPixel acc x y) := by
  refine ⟨fun px py => ⟨fun hc => ?_, fun hc => ?_⟩, ?_⟩
  · simp [drawPixel, Display.pixel_toggle _ hx hy, hc]
  · simp [drawPixel, Display.pixel_toggle _ hx hy, hc]
  · simp [drawPixel]

/-- Eight columns at most draw the pixels they cover: no two of them share one. -/
theorem drawColumns_draws (x0 : Nat) {y : Nat} (hy : y < 32) (row : Byte) : ∀ (n c : Nat) (acc : Display × Bool),
    c + n ≤ 8 → Draws (RowCovers x0 y row c n) acc (drawColumns x0 y row c n acc)
  | 0, c, acc, _ => Draws.none (by rintro px py ⟨_, c', h1, h2, _⟩; omega) acc
  | n + 1, c, acc, hc => by
    have rest := drawColumns_draws x0 hy row n (c + 1)
      (if spriteBit row c then drawPixel acc ((x0 + c) % 64) y else acc) (by omega)
    refine Draws.trans (cov := fun px py => spriteBit row c = true ∧ px = (x0 + c) % 64 ∧ py = y) ?_ rest ?_ ?_
    · by_cases hb : spriteBit row c = true
      · simpa [hb] using drawPixel_draws acc (x := (x0 + c) % 64) (Nat.mod_lt _ (by decide)) hy
      · simpa [hb] using Draws.none (cov := fun _ _ => False) (by simp) acc
    · intro px py
      constructor
      · rintro ⟨h0, c', h1, h2, h3, h4⟩
        rcases Nat.eq_or_lt_of_le h1 with e | e
        · subst e; exact .inl ⟨h3, h4, h0⟩
        · exact .inr ⟨h0, c', by omega, by omega, h3, h4⟩
      · rintro (⟨h3, h4, h0⟩ | ⟨h0, c', h1, h2, h3, h4⟩)
        · exact ⟨h0, c, by omega, by omega, h3, h4⟩
        · exact ⟨h0, c', by omega, by omega, h3, h4⟩
    · rintro px py ⟨_, h4, _⟩ ⟨_, c', h1, h2, _, h5⟩
      omega

/-- At most 32 rows draw the pixels they cover. -/
theorem drawRows_draws (x0 y0 : Nat) : ∀ (rows : List Byte) (r0 : Nat) (acc : Display × Bool), r0 + rows.length ≤ 32 →
    Draws (RowsCover x0 y0 r0 rows) acc (drawRows x0 y0 r0 rows acc)
  | [], r0, acc, _ => Draws.none (by rintro px py ⟨r, c, h, _⟩; simp at h) acc
  | row :: rows, r0, acc, hl => by
    simp only [List.length_cons] at hl
    refine Draws.trans (drawColumns_draws x0 (y := (y0 + r0) % 32) (Nat.mod_lt _ (by decide)) row 8 0 acc (by decide))
      (drawRows_draws x0 y0 rows (r0 + 1) _ (by omega)) ?_ ?_
    · intro px py
      constructor
      · rintro ⟨r, c, h, h1, h2, h3, h4⟩
        cases r with
        | zero => exact .inl ⟨h4, c, by omega, by omega, h2, h3⟩
        | succ r => exact .inr ⟨r, c, by simpa using h, h1, by simpa using h2, h3, by rw [h4]; congr 1; omega⟩
      · rintro (⟨h4, c, _, h1, h2, h3⟩ | ⟨r, c, h, h1, h2, h3, h4⟩)
        · exact ⟨0, c, by simp, by omega, h2, h3, h4⟩
        · exact ⟨r + 1, c, by simpa using h, h1, by simpa using h2, h3, by rw [h4]; congr 1; omega⟩
    · rintro px py ⟨h0, _⟩ ⟨r, c, h, _, _, _, h4⟩
      omega

/-- Everything a draw does (R171): the covered pixels flip, no other changes, and there is a collision just when a covered
pixel was on. -/
theorem drawSprite_draws (d : Display) (x0 y0 : Nat) {rows : List Byte} (h : rows.length ≤ 32) :
    Draws (SpriteCovers rows x0 y0) (d, false) (drawSprite d x0 y0 rows) := by
  have := drawRows_draws x0 y0 rows 0 (d, false) (by omega)
  simpa [RowsCover, SpriteCovers, drawSprite, Draws] using this

/-- Every covered pixel is on the display. -/
theorem spriteCovers_onDisplay {rows : List Byte} {x0 y0 px py : Nat} (h : SpriteCovers rows x0 y0 px py) :
    px < 64 ∧ py < 32 := by
  obtain ⟨r, c, _, _, _, h1, h2⟩ := h
  omega

/-- A sprite has at most 15 rows. -/
theorem spriteRows_length_le (s : State) (n : Nibble) : (spriteRows s n.toNat).length ≤ 32 := by
  have := n.isLt
  simp [spriteRows]
  omega

end Sys2Proof.Machine
end

