-- ==== Sys2Proof/Laws/Memory.lean ====
section
/-! SUPPORT. The laws of memory: a read after a write, the canonical form, and what each access primitive of spec
20_memory can answer. -/

namespace Sys2Proof.Machine

variable {f : Font}

/-! ### One byte -/

theorem Memory.read_of_lt {m : Memory} {lo a : Nat} (h : Memory.wfFrom f lo m = true) (ha : a < lo) :
    m.read f a = Memory.resetByte f a := by
  cases m with
  | nil => rfl
  | cons p rest =>
    obtain ⟨c, d⟩ := p
    simp only [Memory.wfFrom, Bool.and_eq_true, decide_eq_true_eq] at h
    simp [Memory.read, show a < c by omega]

theorem Memory.wfFrom_mono {m : Memory} {lo lo' : Nat} (h : Memory.wfFrom f lo m = true) (hl : lo' ≤ lo) :
    Memory.wfFrom f lo' m = true := by
  cases m with
  | nil => rfl
  | cons p rest =>
    obtain ⟨c, d⟩ := p
    simp only [Memory.wfFrom, Bool.and_eq_true, decide_eq_true_eq] at h ⊢
    exact ⟨⟨⟨by omega, h.1.1.2⟩, h.1.2⟩, h.2⟩

/-- A read after a write, on canonical memory. -/
theorem Memory.read_write_from (m : Memory) : ∀ (lo : Nat), Memory.wfFrom f lo m = true → ∀ (a : Nat) (b : Byte)
    (a' : Nat), (m.write f a b).read f a' = if a' = a then b else m.read f a' := by
  induction m with
  | nil =>
    intro lo _ a b a'
    simp only [Memory.write, Memory.read]
    by_cases hb : b = Memory.resetByte f a
    · by_cases e : a' = a <;> simp [hb, Memory.read, e]
    · rcases Nat.lt_trichotomy a' a with e | e | e
      · simp [hb, Memory.read, e, Nat.ne_of_lt e]
      · simp [hb, Memory.read, e]
      · have h1 : ¬ a' < a := by omega
        have h2 : a' ≠ a := by omega
        simp [hb, Memory.read, h1, h2]
  | cons p rest ih =>
    obtain ⟨c, d⟩ := p
    intro lo h a b a'
    simp only [Memory.wfFrom, Bool.and_eq_true, decide_eq_true_eq] at h
    obtain ⟨⟨⟨hlo, _⟩, _⟩, hrest⟩ := h
    have ih' := ih (c + 1) hrest
    simp only [Memory.write]
    by_cases h1 : a < c
    · by_cases hb : b = Memory.resetByte f a
      · by_cases e : a' = a
        · simp [h1, hb, e, Memory.read]
        · simp [h1, hb, e]
      · by_cases e : a' = a
        · simp [h1, hb, e, Memory.read]
        · by_cases h2 : a' < a
          · simp [h1, hb, e, h2, Memory.read, show a' < c by omega]
          · simp [h1, hb, e, h2, Memory.read]
    · by_cases h2 : a = c
      · subst h2
        by_cases hb : b = Memory.resetByte f a
        · by_cases e : a' = a
          · simp [hb, e, Memory.read_of_lt hrest]
          · by_cases h3 : a' < a
            · simp [hb, e, h3, Memory.read, Memory.read_of_lt hrest (show a' < a + 1 by omega)]
            · simp [hb, e, h3, Memory.read]
        · by_cases e : a' = a
          · simp [hb, e, Memory.read]
          · simp [hb, e, Memory.read]
      · simp only [h1, h2, if_false, Memory.read, ih']
        by_cases h3 : a' < c
        · simp [h3, show a' ≠ a by omega]
        · by_cases h4 : a' = c
          · simp [h4, Ne.symm h2]
          · simp [h3, h4]

/-- A read after a write (20_memory R70). -/
theorem Memory.read_write {m : Memory} (h : m.wf f = true) (a : Nat) (b : Byte) (a' : Nat) :
    (m.write f a b).read f a' = if a' = a then b else m.read f a' :=
  Memory.read_write_from m 0 h a b a'

theorem Memory.wfFrom_write (m : Memory) : ∀ (lo : Nat), Memory.wfFrom f lo m = true → ∀ (a : Nat) (b : Byte),
    lo ≤ a → a < 0x1000 → Memory.wfFrom f lo (m.write f a b) = true := by
  induction m with
  | nil =>
    intro lo _ a b h1 h2
    by_cases hb : b = Memory.resetByte f a <;> simp [Memory.write, Memory.wfFrom, hb, h1, h2]
  | cons p rest ih =>
    obtain ⟨c, d⟩ := p
    intro lo h a b h1 h2
    have hall := h
    simp only [Memory.wfFrom, Bool.and_eq_true, decide_eq_true_eq] at h
    obtain ⟨⟨⟨hlo, hc⟩, hd⟩, hrest⟩ := h
    simp only [Memory.write]
    by_cases h3 : a < c
    · by_cases hb : b = Memory.resetByte f a
      · simpa [h3, hb] using hall
      · simp only [h3, hb, if_true, if_false, Memory.wfFrom, Bool.and_eq_true, decide_eq_true_eq]
        exact ⟨⟨⟨h1, h2⟩, hb⟩, ⟨⟨by omega, hc⟩, hd⟩, hrest⟩
    · by_cases h4 : a = c
      · subst h4
        by_cases hb : b = Memory.resetByte f a
        · simpa [hb] using Memory.wfFrom_mono hrest (show lo ≤ a + 1 by omega)
        · simp only [lt_irrefl, hb, if_false, if_true, Memory.wfFrom, Bool.and_eq_true, decide_eq_true_eq]
          exact ⟨⟨⟨h1, h2⟩, hb⟩, hrest⟩
      · simp only [h3, h4, if_false, Memory.wfFrom, Bool.and_eq_true, decide_eq_true_eq]
        exact ⟨⟨⟨hlo, hc⟩, hd⟩, ih (c + 1) hrest a b (by omega) h2⟩

/-- A write inside the address space keeps the canonical form. -/
theorem Memory.wf_write {m : Memory} (h : m.wf f = true) {a : Nat} (ha : a < 0x1000) (b : Byte) :
    (m.write f a b).wf f = true :=
  Memory.wfFrom_write m 0 h a b (Nat.zero_le a) ha

theorem Memory.ext_from (m : Memory) : ∀ (lo : Nat) (m' : Memory), Memory.wfFrom f lo m = true →
    Memory.wfFrom f lo m' = true → (∀ a, m.read f a = m'.read f a) → m = m' := by
  induction m with
  | nil =>
    intro lo m' _ h' he
    cases m' with
    | nil => rfl
    | cons p rest =>
      obtain ⟨c, d⟩ := p
      simp only [Memory.wfFrom, Bool.and_eq_true, decide_eq_true_eq] at h'
      exact absurd (by simpa [Memory.read] using (he c).symm) h'.1.2
  | cons p rest ih =>
    obtain ⟨c, d⟩ := p
    intro lo m' h h' he
    simp only [Memory.wfFrom, Bool.and_eq_true, decide_eq_true_eq] at h
    cases m' with
    | nil => exact absurd (by simpa [Memory.read] using he c) h.1.2
    | cons p' rest' =>
      obtain ⟨c', d'⟩ := p'
      simp only [Memory.wfFrom, Bool.and_eq_true, decide_eq_true_eq] at h'
      have hcc : c = c' := by
        rcases Nat.lt_trichotomy c c' with e | e | e
        · exact absurd (by simpa [Memory.read, e] using he c) h.1.2
        · exact e
        · exact absurd (by simpa [Memory.read, e] using (he c').symm) h'.1.2
      subst hcc
      have hdd : d = d' := by simpa [Memory.read] using he c
      subst hdd
      congr 1
      refine ih (c + 1) rest' h.2 h'.2 fun a => ?_
      by_cases h1 : a < c + 1
      · rw [Memory.read_of_lt h.2 h1, Memory.read_of_lt h'.2 h1]
      · have := he a
        simpa [Memory.read, show ¬ a < c by omega, show a ≠ c by omega] using this

/-- Canonical memories that read alike are the same data. -/
theorem Memory.ext {m m' : Memory} (h : m.wf f = true) (h' : m'.wf f = true) (he : ∀ a, m.read f a = m'.read f a) : m = m' :=
  Memory.ext_from m 0 m' h h' he

/-! ### Consecutive bytes -/

theorem Memory.wf_writeAll (bs : List Byte) : ∀ (m : Memory) (a : Nat), m.wf f = true → a + bs.length ≤ 0x1000 →
    (m.writeAll f a bs).wf f = true := by
  induction bs with
  | nil => intro m a h _; exact h
  | cons b bs ih =>
    intro m a h hb
    simp only [List.length_cons] at hb
    exact ih _ _ (Memory.wf_write h (by omega) b) (by omega)

/-- A read after consecutive writes. -/
theorem Memory.read_writeAll (bs : List Byte) : ∀ (m : Memory) (a : Nat), m.wf f = true → a + bs.length ≤ 0x1000 →
    ∀ a', (m.writeAll f a bs).read f a' =
      if h : a ≤ a' ∧ a' - a < bs.length then bs[a' - a]'h.2 else m.read f a' := by
  induction bs with
  | nil => intro m a _ _ a'; simp [Memory.writeAll]
  | cons b bs ih =>
    intro m a h hb a'
    simp only [List.length_cons] at hb ⊢
    simp only [Memory.writeAll]
    rw [ih _ _ (Memory.wf_write h (by omega) b) (by omega)]
    by_cases h1 : a + 1 ≤ a'
    · have e : a' - a = (a' - (a + 1)) + 1 := by omega
      by_cases h2 : a' - (a + 1) < bs.length
      · rw [dif_pos ⟨h1, h2⟩, dif_pos ⟨by omega, by omega⟩]
        simp only [e, List.getElem_cons_succ]
      · rw [dif_neg (by omega), dif_neg (by omega), Memory.read_write h, if_neg (by omega)]
    · rw [dif_neg (by omega), Memory.read_write h]
      by_cases h3 : a' = a
      · subst h3; simp
      · rw [if_neg h3, dif_neg (by omega)]

/-! ### A state's memory -/

/-- A byte of the state after consecutive stores. -/
theorem State.byteAt_storeFrom {s : State} {a : Nat} {bs : List Byte} (h : s.memWf = true) (hb : a + bs.length ≤ 0x1000)
    (a' : Nat) : (s.storeFrom a bs).byteAt a' =
      if h : a ≤ a' ∧ a' - a < bs.length then bs[a' - a]'h.2 else s.byteAt a' :=
  Memory.read_writeAll bs s.mem a h hb a'

/-- Stores inside the address space keep the canonical form. -/
theorem State.memWf_storeFrom {s : State} {a : Nat} {bs : List Byte} (h : s.memWf = true)
    (hb : a + bs.length ≤ 0x1000) : (s.storeFrom a bs).memWf = true :=
  Memory.wf_writeAll bs s.mem a h hb

/-- A byte of the reset state: FONT, then zeros (10_state R34). -/
theorem State.byteAt_resetWith (p : Params) (a : Nat) :
    (State.resetWith p).byteAt a = if h : a < 80 then p.font[a] else 0 := rfl

/-! ### The access primitives -/

theorem memReadAll_ok (m : Memory) : ∀ (n a : Nat), (n = 0 ∨ a + n ≤ 0x1000) →
    memReadAll f m a n = .ok ((List.range n).map fun k => m.read f (a + k)) := by
  intro n
  induction n with
  | zero => intro a _; rfl
  | succ n ih =>
    intro a h
    simp only [memReadAll, memRead, if_neg (show ¬ a > 0xFFF by omega), ih (a + 1) (by omega)]
    rw [List.range_succ_eq_map]
    simp [Function.comp_def, Nat.add_assoc, Nat.add_comm 1]

theorem memReadAll_error (m : Memory) : ∀ (n a : Nat), n ≠ 0 → 0x1000 < a + n →
    memReadAll f m a n = .error (memOobAt (max a 0x1000)) := by
  intro n
  induction n with
  | zero => intro a h; exact absurd rfl h
  | succ n ih =>
    intro a _ h
    simp only [memReadAll, memRead]
    by_cases h1 : a > 0xFFF
    · rw [if_pos h1]; simp [Nat.max_eq_left (show 0x1000 ≤ a by omega)]
    · rw [if_neg h1]
      simp only
      rw [ih (a + 1) (by omega) (by omega)]
      simp [show max (a + 1) 0x1000 = max a 0x1000 by omega]

/-- Everything `memReadAll` can answer (20_memory R66, 60_exceptions R229). -/
theorem memReadAll_cases (f : Font) (m : Memory) (a n : Nat) :
    ((n = 0 ∨ a + n ≤ 0x1000) ∧ memReadAll f m a n = .ok ((List.range n).map fun k => m.read f (a + k))) ∨
    ((n ≠ 0 ∧ 0x1000 < a + n) ∧ memReadAll f m a n = .error (memOobAt (max a 0x1000))) := by
  by_cases h : n = 0 ∨ a + n ≤ 0x1000
  · exact .inl ⟨h, memReadAll_ok m n a h⟩
  · exact .inr ⟨by omega, memReadAll_error m n a (by omega) (by omega)⟩

theorem memWriteAll_ok (bs : List Byte) : ∀ (m : Memory) (a : Nat), (bs = [] ∨ a + bs.length ≤ 0x1000) →
    memWriteAll f m a bs = .ok (m.writeAll f a bs) := by
  induction bs with
  | nil => intro m a _; rfl
  | cons b bs ih =>
    intro m a h
    simp only [List.length_cons, reduceCtorEq, false_or] at h
    simp only [memWriteAll, memWrite, if_neg (show ¬ a > 0xFFF by omega), Memory.writeAll]
    exact ih _ _ (.inr (by omega))

theorem memWriteAll_error (bs : List Byte) : ∀ (m : Memory) (a : Nat), bs ≠ [] → 0x1000 < a + bs.length →
    memWriteAll f m a bs = .error (memOobAt (max a 0x1000)) := by
  induction bs with
  | nil => intro m a h; exact absurd rfl h
  | cons b bs ih =>
    intro m a _ h
    simp only [List.length_cons] at h
    simp only [memWriteAll, memWrite]
    by_cases h1 : a > 0xFFF
    · rw [if_pos h1]; simp [Nat.max_eq_left (show 0x1000 ≤ a by omega)]
    · rw [if_neg h1]
      have hne : bs ≠ [] := by
        intro e
        rw [e, List.length_nil] at h
        omega
      simp only
      rw [ih _ (a + 1) hne (by omega)]
      simp [show max (a + 1) 0x1000 = max a 0x1000 by omega]

/-- Everything `memWriteAll` can answer (20_memory R67, 60_exceptions R229). -/
theorem memWriteAll_cases (f : Font) (m : Memory) (a : Nat) (bs : List Byte) :
    ((bs = [] ∨ a + bs.length ≤ 0x1000) ∧ memWriteAll f m a bs = .ok (m.writeAll f a bs)) ∨
    ((bs ≠ [] ∧ 0x1000 < a + bs.length) ∧ memWriteAll f m a bs = .error (memOobAt (max a 0x1000))) := by
  by_cases h : bs = [] ∨ a + bs.length ≤ 0x1000
  · exact .inl ⟨h, memWriteAll_ok bs m a h⟩
  · simp only [not_or, not_le] at h
    exact .inr ⟨h, memWriteAll_error bs m a h.1 h.2⟩

/-- Everything Fetch16 can answer (20_memory R68). -/
theorem fetch16_cases (f : Font) (m : Memory) (a : Nat) :
    (a ≤ 0xFFE ∧ fetch16 f m a = .ok (wordOfBytes (m.read f a) (m.read f (a + 1)))) ∨
    (0xFFE < a ∧ fetch16 f m a = .error (memOobAt (max a 0x1000))) := by
  by_cases h : a ≤ 0xFFE
  · exact .inl ⟨h, by simp [fetch16, memRead, show ¬ a > 0xFFF by omega, show ¬ a + 1 > 0xFFF by omega]⟩
  · refine .inr ⟨by omega, ?_⟩
    by_cases h1 : a > 0xFFF
    · simp [fetch16, memRead, h1, Nat.max_eq_left (show 0x1000 ≤ a by omega)]
    · have e : a = 0xFFF := by omega
      subst e
      simp [fetch16, memRead]

/-- The fetch of a STEP gives the fetched word, or faults (10_state R37, 20_memory R68). -/
theorem State.fetch_cases (s : State) :
    (s.pc.toNat ≤ 0xFFE ∧ fetch16 s.params.font s.mem s.pc.toNat = .ok (fetchedWord s)) ∨
    (0xFFE < s.pc.toNat ∧ fetch16 s.params.font s.mem s.pc.toNat = .error (memOobAt (max s.pc.toNat 0x1000))) :=
  fetch16_cases s.params.font s.mem s.pc.toNat

/-- The info of an access fault is the offending address itself: it fits 16 bits (60_exceptions R222). -/
theorem memOobAt_info {a : Nat} (h : a < 0x10000) : (memOobAt a).info.toNat = a := by
  simp [memOobAt, Nat.mod_eq_of_lt h]

end Sys2Proof.Machine
end

