-- ==== Sys2Proof/Laws/State.lean ====
section
/-! SUPPORT. The small laws of the state: one lemma per field per update, and reading a register, a key or a byte of memory
after an update. -/

namespace Sys2Proof.Machine

variable (s : State)

/-! ### setPc -/

@[simp] theorem State.setPc_pc (t : Word) : (s.setPc t).pc = t := rfl
@[simp] theorem State.setPc_v (t : Word) : (s.setPc t).v = s.v := rfl
@[simp] theorem State.setPc_idx (t : Word) : (s.setPc t).idx = s.idx := rfl
@[simp] theorem State.setPc_sp (t : Word) : (s.setPc t).sp = s.sp := rfl
@[simp] theorem State.setPc_stack (t : Word) : (s.setPc t).stack = s.stack := rfl
@[simp] theorem State.setPc_dt (t : Word) : (s.setPc t).dt = s.dt := rfl
@[simp] theorem State.setPc_st (t : Word) : (s.setPc t).st = s.st := rfl
@[simp] theorem State.setPc_keys (t : Word) : (s.setPc t).keys = s.keys := rfl
@[simp] theorem State.setPc_disp (t : Word) : (s.setPc t).disp = s.disp := rfl
@[simp] theorem State.setPc_mem (t : Word) : (s.setPc t).mem = s.mem := rfl
@[simp] theorem State.setPc_status (t : Word) : (s.setPc t).status = s.status := rfl
@[simp] theorem State.setPc_cause (t : Word) : (s.setPc t).cause = s.cause := rfl
@[simp] theorem State.setPc_info (t : Word) : (s.setPc t).info = s.info := rfl
@[simp] theorem State.setPc_params (t : Word) : (s.setPc t).params = s.params := rfl
@[simp] theorem State.setPc_outside (t : Word) : (s.setPc t).outside = s.outside := rfl

/-! ### advance -/

@[simp] theorem State.advance_pc : (s.advance).pc = s.pc + 2 := rfl
@[simp] theorem State.advance_v : (s.advance).v = s.v := rfl
@[simp] theorem State.advance_idx : (s.advance).idx = s.idx := rfl
@[simp] theorem State.advance_sp : (s.advance).sp = s.sp := rfl
@[simp] theorem State.advance_stack : (s.advance).stack = s.stack := rfl
@[simp] theorem State.advance_dt : (s.advance).dt = s.dt := rfl
@[simp] theorem State.advance_st : (s.advance).st = s.st := rfl
@[simp] theorem State.advance_keys : (s.advance).keys = s.keys := rfl
@[simp] theorem State.advance_disp : (s.advance).disp = s.disp := rfl
@[simp] theorem State.advance_mem : (s.advance).mem = s.mem := rfl
@[simp] theorem State.advance_status : (s.advance).status = s.status := rfl
@[simp] theorem State.advance_cause : (s.advance).cause = s.cause := rfl
@[simp] theorem State.advance_info : (s.advance).info = s.info := rfl
@[simp] theorem State.advance_params : (s.advance).params = s.params := rfl
@[simp] theorem State.advance_outside : (s.advance).outside = s.outside := rfl

/-! ### setIdx -/

@[simp] theorem State.setIdx_pc (a : Word) : (s.setIdx a).pc = s.pc := rfl
@[simp] theorem State.setIdx_v (a : Word) : (s.setIdx a).v = s.v := rfl
@[simp] theorem State.setIdx_idx (a : Word) : (s.setIdx a).idx = a := rfl
@[simp] theorem State.setIdx_sp (a : Word) : (s.setIdx a).sp = s.sp := rfl
@[simp] theorem State.setIdx_stack (a : Word) : (s.setIdx a).stack = s.stack := rfl
@[simp] theorem State.setIdx_dt (a : Word) : (s.setIdx a).dt = s.dt := rfl
@[simp] theorem State.setIdx_st (a : Word) : (s.setIdx a).st = s.st := rfl
@[simp] theorem State.setIdx_keys (a : Word) : (s.setIdx a).keys = s.keys := rfl
@[simp] theorem State.setIdx_disp (a : Word) : (s.setIdx a).disp = s.disp := rfl
@[simp] theorem State.setIdx_mem (a : Word) : (s.setIdx a).mem = s.mem := rfl
@[simp] theorem State.setIdx_status (a : Word) : (s.setIdx a).status = s.status := rfl
@[simp] theorem State.setIdx_cause (a : Word) : (s.setIdx a).cause = s.cause := rfl
@[simp] theorem State.setIdx_info (a : Word) : (s.setIdx a).info = s.info := rfl
@[simp] theorem State.setIdx_params (a : Word) : (s.setIdx a).params = s.params := rfl
@[simp] theorem State.setIdx_outside (a : Word) : (s.setIdx a).outside = s.outside := rfl

/-! ### setDt -/

@[simp] theorem State.setDt_pc (b : Byte) : (s.setDt b).pc = s.pc := rfl
@[simp] theorem State.setDt_v (b : Byte) : (s.setDt b).v = s.v := rfl
@[simp] theorem State.setDt_idx (b : Byte) : (s.setDt b).idx = s.idx := rfl
@[simp] theorem State.setDt_sp (b : Byte) : (s.setDt b).sp = s.sp := rfl
@[simp] theorem State.setDt_stack (b : Byte) : (s.setDt b).stack = s.stack := rfl
@[simp] theorem State.setDt_dt (b : Byte) : (s.setDt b).dt = b := rfl
@[simp] theorem State.setDt_st (b : Byte) : (s.setDt b).st = s.st := rfl
@[simp] theorem State.setDt_keys (b : Byte) : (s.setDt b).keys = s.keys := rfl
@[simp] theorem State.setDt_disp (b : Byte) : (s.setDt b).disp = s.disp := rfl
@[simp] theorem State.setDt_mem (b : Byte) : (s.setDt b).mem = s.mem := rfl
@[simp] theorem State.setDt_status (b : Byte) : (s.setDt b).status = s.status := rfl
@[simp] theorem State.setDt_cause (b : Byte) : (s.setDt b).cause = s.cause := rfl
@[simp] theorem State.setDt_info (b : Byte) : (s.setDt b).info = s.info := rfl
@[simp] theorem State.setDt_params (b : Byte) : (s.setDt b).params = s.params := rfl
@[simp] theorem State.setDt_outside (b : Byte) : (s.setDt b).outside = s.outside := rfl

/-! ### setSt -/

@[simp] theorem State.setSt_pc (b : Byte) : (s.setSt b).pc = s.pc := rfl
@[simp] theorem State.setSt_v (b : Byte) : (s.setSt b).v = s.v := rfl
@[simp] theorem State.setSt_idx (b : Byte) : (s.setSt b).idx = s.idx := rfl
@[simp] theorem State.setSt_sp (b : Byte) : (s.setSt b).sp = s.sp := rfl
@[simp] theorem State.setSt_stack (b : Byte) : (s.setSt b).stack = s.stack := rfl
@[simp] theorem State.setSt_dt (b : Byte) : (s.setSt b).dt = s.dt := rfl
@[simp] theorem State.setSt_st (b : Byte) : (s.setSt b).st = b := rfl
@[simp] theorem State.setSt_keys (b : Byte) : (s.setSt b).keys = s.keys := rfl
@[simp] theorem State.setSt_disp (b : Byte) : (s.setSt b).disp = s.disp := rfl
@[simp] theorem State.setSt_mem (b : Byte) : (s.setSt b).mem = s.mem := rfl
@[simp] theorem State.setSt_status (b : Byte) : (s.setSt b).status = s.status := rfl
@[simp] theorem State.setSt_cause (b : Byte) : (s.setSt b).cause = s.cause := rfl
@[simp] theorem State.setSt_info (b : Byte) : (s.setSt b).info = s.info := rfl
@[simp] theorem State.setSt_params (b : Byte) : (s.setSt b).params = s.params := rfl
@[simp] theorem State.setSt_outside (b : Byte) : (s.setSt b).outside = s.outside := rfl

/-! ### setDisp -/

@[simp] theorem State.setDisp_pc (d : Display) : (s.setDisp d).pc = s.pc := rfl
@[simp] theorem State.setDisp_v (d : Display) : (s.setDisp d).v = s.v := rfl
@[simp] theorem State.setDisp_idx (d : Display) : (s.setDisp d).idx = s.idx := rfl
@[simp] theorem State.setDisp_sp (d : Display) : (s.setDisp d).sp = s.sp := rfl
@[simp] theorem State.setDisp_stack (d : Display) : (s.setDisp d).stack = s.stack := rfl
@[simp] theorem State.setDisp_dt (d : Display) : (s.setDisp d).dt = s.dt := rfl
@[simp] theorem State.setDisp_st (d : Display) : (s.setDisp d).st = s.st := rfl
@[simp] theorem State.setDisp_keys (d : Display) : (s.setDisp d).keys = s.keys := rfl
@[simp] theorem State.setDisp_disp (d : Display) : (s.setDisp d).disp = d := rfl
@[simp] theorem State.setDisp_mem (d : Display) : (s.setDisp d).mem = s.mem := rfl
@[simp] theorem State.setDisp_status (d : Display) : (s.setDisp d).status = s.status := rfl
@[simp] theorem State.setDisp_cause (d : Display) : (s.setDisp d).cause = s.cause := rfl
@[simp] theorem State.setDisp_info (d : Display) : (s.setDisp d).info = s.info := rfl
@[simp] theorem State.setDisp_params (d : Display) : (s.setDisp d).params = s.params := rfl
@[simp] theorem State.setDisp_outside (d : Display) : (s.setDisp d).outside = s.outside := rfl

/-! ### setMem -/

@[simp] theorem State.setMem_pc (m : Memory) : (s.setMem m).pc = s.pc := rfl
@[simp] theorem State.setMem_v (m : Memory) : (s.setMem m).v = s.v := rfl
@[simp] theorem State.setMem_idx (m : Memory) : (s.setMem m).idx = s.idx := rfl
@[simp] theorem State.setMem_sp (m : Memory) : (s.setMem m).sp = s.sp := rfl
@[simp] theorem State.setMem_stack (m : Memory) : (s.setMem m).stack = s.stack := rfl
@[simp] theorem State.setMem_dt (m : Memory) : (s.setMem m).dt = s.dt := rfl
@[simp] theorem State.setMem_st (m : Memory) : (s.setMem m).st = s.st := rfl
@[simp] theorem State.setMem_keys (m : Memory) : (s.setMem m).keys = s.keys := rfl
@[simp] theorem State.setMem_disp (m : Memory) : (s.setMem m).disp = s.disp := rfl
@[simp] theorem State.setMem_mem (m : Memory) : (s.setMem m).mem = m := rfl
@[simp] theorem State.setMem_status (m : Memory) : (s.setMem m).status = s.status := rfl
@[simp] theorem State.setMem_cause (m : Memory) : (s.setMem m).cause = s.cause := rfl
@[simp] theorem State.setMem_info (m : Memory) : (s.setMem m).info = s.info := rfl
@[simp] theorem State.setMem_params (m : Memory) : (s.setMem m).params = s.params := rfl
@[simp] theorem State.setMem_outside (m : Memory) : (s.setMem m).outside = s.outside := rfl

/-! ### setStack -/

@[simp] theorem State.setStack_pc (n : Fin 17) (a : Vector Word 16) : (s.setStack n a).pc = s.pc := rfl
@[simp] theorem State.setStack_v (n : Fin 17) (a : Vector Word 16) : (s.setStack n a).v = s.v := rfl
@[simp] theorem State.setStack_idx (n : Fin 17) (a : Vector Word 16) : (s.setStack n a).idx = s.idx := rfl
@[simp] theorem State.setStack_sp (n : Fin 17) (a : Vector Word 16) : (s.setStack n a).sp = n := rfl
@[simp] theorem State.setStack_stack (n : Fin 17) (a : Vector Word 16) : (s.setStack n a).stack = a := rfl
@[simp] theorem State.setStack_dt (n : Fin 17) (a : Vector Word 16) : (s.setStack n a).dt = s.dt := rfl
@[simp] theorem State.setStack_st (n : Fin 17) (a : Vector Word 16) : (s.setStack n a).st = s.st := rfl
@[simp] theorem State.setStack_keys (n : Fin 17) (a : Vector Word 16) : (s.setStack n a).keys = s.keys := rfl
@[simp] theorem State.setStack_disp (n : Fin 17) (a : Vector Word 16) : (s.setStack n a).disp = s.disp := rfl
@[simp] theorem State.setStack_mem (n : Fin 17) (a : Vector Word 16) : (s.setStack n a).mem = s.mem := rfl
@[simp] theorem State.setStack_status (n : Fin 17) (a : Vector Word 16) : (s.setStack n a).status = s.status := rfl
@[simp] theorem State.setStack_cause (n : Fin 17) (a : Vector Word 16) : (s.setStack n a).cause = s.cause := rfl
@[simp] theorem State.setStack_info (n : Fin 17) (a : Vector Word 16) : (s.setStack n a).info = s.info := rfl
@[simp] theorem State.setStack_params (n : Fin 17) (a : Vector Word 16) : (s.setStack n a).params = s.params := rfl
@[simp] theorem State.setStack_outside (n : Fin 17) (a : Vector Word 16) : (s.setStack n a).outside = s.outside := rfl

/-! ### storeFrom -/

@[simp] theorem State.storeFrom_pc (a : Nat) (bs : List Byte) : (s.storeFrom a bs).pc = s.pc := rfl
@[simp] theorem State.storeFrom_v (a : Nat) (bs : List Byte) : (s.storeFrom a bs).v = s.v := rfl
@[simp] theorem State.storeFrom_idx (a : Nat) (bs : List Byte) : (s.storeFrom a bs).idx = s.idx := rfl
@[simp] theorem State.storeFrom_sp (a : Nat) (bs : List Byte) : (s.storeFrom a bs).sp = s.sp := rfl
@[simp] theorem State.storeFrom_stack (a : Nat) (bs : List Byte) : (s.storeFrom a bs).stack = s.stack := rfl
@[simp] theorem State.storeFrom_dt (a : Nat) (bs : List Byte) : (s.storeFrom a bs).dt = s.dt := rfl
@[simp] theorem State.storeFrom_st (a : Nat) (bs : List Byte) : (s.storeFrom a bs).st = s.st := rfl
@[simp] theorem State.storeFrom_keys (a : Nat) (bs : List Byte) : (s.storeFrom a bs).keys = s.keys := rfl
@[simp] theorem State.storeFrom_disp (a : Nat) (bs : List Byte) : (s.storeFrom a bs).disp = s.disp := rfl
@[simp] theorem State.storeFrom_mem (a : Nat) (bs : List Byte) : (s.storeFrom a bs).mem = s.mem.writeAll s.params.font a bs := rfl
@[simp] theorem State.storeFrom_status (a : Nat) (bs : List Byte) : (s.storeFrom a bs).status = s.status := rfl
@[simp] theorem State.storeFrom_cause (a : Nat) (bs : List Byte) : (s.storeFrom a bs).cause = s.cause := rfl
@[simp] theorem State.storeFrom_info (a : Nat) (bs : List Byte) : (s.storeFrom a bs).info = s.info := rfl
@[simp] theorem State.storeFrom_params (a : Nat) (bs : List Byte) : (s.storeFrom a bs).params = s.params := rfl
@[simp] theorem State.storeFrom_outside (a : Nat) (bs : List Byte) : (s.storeFrom a bs).outside = s.outside := rfl

/-! ### setV -/

@[simp] theorem State.setV_pc (r : Nibble) (b : Byte) : (s.setV r b).pc = s.pc := rfl
@[simp] theorem State.setV_v (r : Nibble) (b : Byte) : (s.setV r b).v = s.v.set r.toNat b r.isLt := rfl
@[simp] theorem State.setV_idx (r : Nibble) (b : Byte) : (s.setV r b).idx = s.idx := rfl
@[simp] theorem State.setV_sp (r : Nibble) (b : Byte) : (s.setV r b).sp = s.sp := rfl
@[simp] theorem State.setV_stack (r : Nibble) (b : Byte) : (s.setV r b).stack = s.stack := rfl
@[simp] theorem State.setV_dt (r : Nibble) (b : Byte) : (s.setV r b).dt = s.dt := rfl
@[simp] theorem State.setV_st (r : Nibble) (b : Byte) : (s.setV r b).st = s.st := rfl
@[simp] theorem State.setV_keys (r : Nibble) (b : Byte) : (s.setV r b).keys = s.keys := rfl
@[simp] theorem State.setV_disp (r : Nibble) (b : Byte) : (s.setV r b).disp = s.disp := rfl
@[simp] theorem State.setV_mem (r : Nibble) (b : Byte) : (s.setV r b).mem = s.mem := rfl
@[simp] theorem State.setV_status (r : Nibble) (b : Byte) : (s.setV r b).status = s.status := rfl
@[simp] theorem State.setV_cause (r : Nibble) (b : Byte) : (s.setV r b).cause = s.cause := rfl
@[simp] theorem State.setV_info (r : Nibble) (b : Byte) : (s.setV r b).info = s.info := rfl
@[simp] theorem State.setV_params (r : Nibble) (b : Byte) : (s.setV r b).params = s.params := rfl
@[simp] theorem State.setV_outside (r : Nibble) (b : Byte) : (s.setV r b).outside = s.outside := rfl

/-! ### setKeyState -/

@[simp] theorem State.setKeyState_pc (k : Nibble) (p : Bool) : (s.setKeyState k p).pc = s.pc := rfl
@[simp] theorem State.setKeyState_v (k : Nibble) (p : Bool) : (s.setKeyState k p).v = s.v := rfl
@[simp] theorem State.setKeyState_idx (k : Nibble) (p : Bool) : (s.setKeyState k p).idx = s.idx := rfl
@[simp] theorem State.setKeyState_sp (k : Nibble) (p : Bool) : (s.setKeyState k p).sp = s.sp := rfl
@[simp] theorem State.setKeyState_stack (k : Nibble) (p : Bool) : (s.setKeyState k p).stack = s.stack := rfl
@[simp] theorem State.setKeyState_dt (k : Nibble) (p : Bool) : (s.setKeyState k p).dt = s.dt := rfl
@[simp] theorem State.setKeyState_st (k : Nibble) (p : Bool) : (s.setKeyState k p).st = s.st := rfl
@[simp] theorem State.setKeyState_keys (k : Nibble) (p : Bool) : (s.setKeyState k p).keys = s.keys.set k.toNat p k.isLt := rfl
@[simp] theorem State.setKeyState_disp (k : Nibble) (p : Bool) : (s.setKeyState k p).disp = s.disp := rfl
@[simp] theorem State.setKeyState_mem (k : Nibble) (p : Bool) : (s.setKeyState k p).mem = s.mem := rfl
@[simp] theorem State.setKeyState_status (k : Nibble) (p : Bool) : (s.setKeyState k p).status = s.status := rfl
@[simp] theorem State.setKeyState_cause (k : Nibble) (p : Bool) : (s.setKeyState k p).cause = s.cause := rfl
@[simp] theorem State.setKeyState_info (k : Nibble) (p : Bool) : (s.setKeyState k p).info = s.info := rfl
@[simp] theorem State.setKeyState_params (k : Nibble) (p : Bool) : (s.setKeyState k p).params = s.params := rfl
@[simp] theorem State.setKeyState_outside (k : Nibble) (p : Bool) : (s.setKeyState k p).outside = s.outside := rfl

/-! ### drawn -/

@[simp] theorem State.drawn_pc : (s.drawn).pc = s.pc := rfl
@[simp] theorem State.drawn_v : (s.drawn).v = s.v := rfl
@[simp] theorem State.drawn_idx : (s.drawn).idx = s.idx := rfl
@[simp] theorem State.drawn_sp : (s.drawn).sp = s.sp := rfl
@[simp] theorem State.drawn_stack : (s.drawn).stack = s.stack := rfl
@[simp] theorem State.drawn_dt : (s.drawn).dt = s.dt := rfl
@[simp] theorem State.drawn_st : (s.drawn).st = s.st := rfl
@[simp] theorem State.drawn_keys : (s.drawn).keys = s.keys := rfl
@[simp] theorem State.drawn_disp : (s.drawn).disp = s.disp := rfl
@[simp] theorem State.drawn_mem : (s.drawn).mem = s.mem := rfl
@[simp] theorem State.drawn_status : (s.drawn).status = s.status := rfl
@[simp] theorem State.drawn_cause : (s.drawn).cause = s.cause := rfl
@[simp] theorem State.drawn_info : (s.drawn).info = s.info := rfl
@[simp] theorem State.drawn_params : (s.drawn).params = s.params := rfl
@[simp] theorem State.drawn_outside : (s.drawn).outside = { s.outside with draws := s.outside.draws + 1 } := rfl

/-! ### enterFault -/

@[simp] theorem State.enterFault_pc (t : Trap) : (s.enterFault t).pc = s.pc := rfl
@[simp] theorem State.enterFault_v (t : Trap) : (s.enterFault t).v = s.v := rfl
@[simp] theorem State.enterFault_idx (t : Trap) : (s.enterFault t).idx = s.idx := rfl
@[simp] theorem State.enterFault_sp (t : Trap) : (s.enterFault t).sp = s.sp := rfl
@[simp] theorem State.enterFault_stack (t : Trap) : (s.enterFault t).stack = s.stack := rfl
@[simp] theorem State.enterFault_dt (t : Trap) : (s.enterFault t).dt = s.dt := rfl
@[simp] theorem State.enterFault_st (t : Trap) : (s.enterFault t).st = s.st := rfl
@[simp] theorem State.enterFault_keys (t : Trap) : (s.enterFault t).keys = s.keys := rfl
@[simp] theorem State.enterFault_disp (t : Trap) : (s.enterFault t).disp = s.disp := rfl
@[simp] theorem State.enterFault_mem (t : Trap) : (s.enterFault t).mem = s.mem := rfl
@[simp] theorem State.enterFault_status (t : Trap) : (s.enterFault t).status = .faulted := rfl
@[simp] theorem State.enterFault_cause (t : Trap) : (s.enterFault t).cause = t.cause := rfl
@[simp] theorem State.enterFault_info (t : Trap) : (s.enterFault t).info = t.info := rfl
@[simp] theorem State.enterFault_params (t : Trap) : (s.enterFault t).params = s.params := rfl
@[simp] theorem State.enterFault_outside (t : Trap) : (s.enterFault t).outside = s.outside := rfl

/-! ### answer -/

@[simp] theorem State.answer_pc (r : Reply) : (s.answer r).pc = s.pc := rfl
@[simp] theorem State.answer_v (r : Reply) : (s.answer r).v = s.v := rfl
@[simp] theorem State.answer_idx (r : Reply) : (s.answer r).idx = s.idx := rfl
@[simp] theorem State.answer_sp (r : Reply) : (s.answer r).sp = s.sp := rfl
@[simp] theorem State.answer_stack (r : Reply) : (s.answer r).stack = s.stack := rfl
@[simp] theorem State.answer_dt (r : Reply) : (s.answer r).dt = s.dt := rfl
@[simp] theorem State.answer_st (r : Reply) : (s.answer r).st = s.st := rfl
@[simp] theorem State.answer_keys (r : Reply) : (s.answer r).keys = s.keys := rfl
@[simp] theorem State.answer_disp (r : Reply) : (s.answer r).disp = s.disp := rfl
@[simp] theorem State.answer_mem (r : Reply) : (s.answer r).mem = s.mem := rfl
@[simp] theorem State.answer_status (r : Reply) : (s.answer r).status = s.status := rfl
@[simp] theorem State.answer_cause (r : Reply) : (s.answer r).cause = s.cause := rfl
@[simp] theorem State.answer_info (r : Reply) : (s.answer r).info = s.info := rfl
@[simp] theorem State.answer_params (r : Reply) : (s.answer r).params = s.params := rfl
@[simp] theorem State.answer_outside (r : Reply) : (s.answer r).outside = { s.outside with reply := r } := rfl

/-! ### tick -/

@[simp] theorem State.tick_pc : (s.tick).pc = s.pc := rfl
@[simp] theorem State.tick_v : (s.tick).v = s.v := rfl
@[simp] theorem State.tick_idx : (s.tick).idx = s.idx := rfl
@[simp] theorem State.tick_sp : (s.tick).sp = s.sp := rfl
@[simp] theorem State.tick_stack : (s.tick).stack = s.stack := rfl
@[simp] theorem State.tick_dt : (s.tick).dt = countDown s.dt := rfl
@[simp] theorem State.tick_st : (s.tick).st = countDown s.st := rfl
@[simp] theorem State.tick_keys : (s.tick).keys = s.keys := rfl
@[simp] theorem State.tick_disp : (s.tick).disp = s.disp := rfl
@[simp] theorem State.tick_mem : (s.tick).mem = s.mem := rfl
@[simp] theorem State.tick_status : (s.tick).status = s.status := rfl
@[simp] theorem State.tick_cause : (s.tick).cause = s.cause := rfl
@[simp] theorem State.tick_info : (s.tick).info = s.info := rfl
@[simp] theorem State.tick_params : (s.tick).params = s.params := rfl
@[simp] theorem State.tick_outside : (s.tick).outside = { s.outside with reply := .tone (decide (s.st.toNat > 0)) } := rfl

/-! ### setPending -/

@[simp] theorem State.setPending_pc (cs : List Command) : (s.setPending cs).pc = s.pc := rfl
@[simp] theorem State.setPending_v (cs : List Command) : (s.setPending cs).v = s.v := rfl
@[simp] theorem State.setPending_idx (cs : List Command) : (s.setPending cs).idx = s.idx := rfl
@[simp] theorem State.setPending_sp (cs : List Command) : (s.setPending cs).sp = s.sp := rfl
@[simp] theorem State.setPending_stack (cs : List Command) : (s.setPending cs).stack = s.stack := rfl
@[simp] theorem State.setPending_dt (cs : List Command) : (s.setPending cs).dt = s.dt := rfl
@[simp] theorem State.setPending_st (cs : List Command) : (s.setPending cs).st = s.st := rfl
@[simp] theorem State.setPending_keys (cs : List Command) : (s.setPending cs).keys = s.keys := rfl
@[simp] theorem State.setPending_disp (cs : List Command) : (s.setPending cs).disp = s.disp := rfl
@[simp] theorem State.setPending_mem (cs : List Command) : (s.setPending cs).mem = s.mem := rfl
@[simp] theorem State.setPending_status (cs : List Command) : (s.setPending cs).status = s.status := rfl
@[simp] theorem State.setPending_cause (cs : List Command) : (s.setPending cs).cause = s.cause := rfl
@[simp] theorem State.setPending_info (cs : List Command) : (s.setPending cs).info = s.info := rfl
@[simp] theorem State.setPending_params (cs : List Command) : (s.setPending cs).params = s.params := rfl
@[simp] theorem State.setPending_outside (cs : List Command) : (s.setPending cs).outside = { s.outside with pending := cs } := rfl

/-! ### Registers and keys after an update -/

@[simp] theorem State.getV_setPc (t : Word) (r' : Nibble) : (s.setPc t).getV r' = s.getV r' := rfl
@[simp] theorem State.getKey_setPc (t : Word) (k' : Nibble) : (s.setPc t).getKey k' = s.getKey k' := rfl
@[simp] theorem State.byteAt_setPc (t : Word) (a' : Nat) : (s.setPc t).byteAt a' = s.byteAt a' := rfl
@[simp] theorem State.memWf_setPc (t : Word) : (s.setPc t).memWf = s.memWf := rfl
@[simp] theorem State.getV_advance (r' : Nibble) : (s.advance).getV r' = s.getV r' := rfl
@[simp] theorem State.getKey_advance (k' : Nibble) : (s.advance).getKey k' = s.getKey k' := rfl
@[simp] theorem State.byteAt_advance (a' : Nat) : (s.advance).byteAt a' = s.byteAt a' := rfl
@[simp] theorem State.memWf_advance : (s.advance).memWf = s.memWf := rfl
@[simp] theorem State.getV_setIdx (a : Word) (r' : Nibble) : (s.setIdx a).getV r' = s.getV r' := rfl
@[simp] theorem State.getKey_setIdx (a : Word) (k' : Nibble) : (s.setIdx a).getKey k' = s.getKey k' := rfl
@[simp] theorem State.byteAt_setIdx (a : Word) (a' : Nat) : (s.setIdx a).byteAt a' = s.byteAt a' := rfl
@[simp] theorem State.memWf_setIdx (a : Word) : (s.setIdx a).memWf = s.memWf := rfl
@[simp] theorem State.getV_setDt (b : Byte) (r' : Nibble) : (s.setDt b).getV r' = s.getV r' := rfl
@[simp] theorem State.getKey_setDt (b : Byte) (k' : Nibble) : (s.setDt b).getKey k' = s.getKey k' := rfl
@[simp] theorem State.byteAt_setDt (b : Byte) (a' : Nat) : (s.setDt b).byteAt a' = s.byteAt a' := rfl
@[simp] theorem State.memWf_setDt (b : Byte) : (s.setDt b).memWf = s.memWf := rfl
@[simp] theorem State.getV_setSt (b : Byte) (r' : Nibble) : (s.setSt b).getV r' = s.getV r' := rfl
@[simp] theorem State.getKey_setSt (b : Byte) (k' : Nibble) : (s.setSt b).getKey k' = s.getKey k' := rfl
@[simp] theorem State.byteAt_setSt (b : Byte) (a' : Nat) : (s.setSt b).byteAt a' = s.byteAt a' := rfl
@[simp] theorem State.memWf_setSt (b : Byte) : (s.setSt b).memWf = s.memWf := rfl
@[simp] theorem State.getV_setDisp (d : Display) (r' : Nibble) : (s.setDisp d).getV r' = s.getV r' := rfl
@[simp] theorem State.getKey_setDisp (d : Display) (k' : Nibble) : (s.setDisp d).getKey k' = s.getKey k' := rfl
@[simp] theorem State.byteAt_setDisp (d : Display) (a' : Nat) : (s.setDisp d).byteAt a' = s.byteAt a' := rfl
@[simp] theorem State.memWf_setDisp (d : Display) : (s.setDisp d).memWf = s.memWf := rfl
@[simp] theorem State.getV_setMem (m : Memory) (r' : Nibble) : (s.setMem m).getV r' = s.getV r' := rfl
@[simp] theorem State.getKey_setMem (m : Memory) (k' : Nibble) : (s.setMem m).getKey k' = s.getKey k' := rfl
@[simp] theorem State.getV_setStack (n : Fin 17) (a : Vector Word 16) (r' : Nibble) : (s.setStack n a).getV r' = s.getV r' := rfl
@[simp] theorem State.getKey_setStack (n : Fin 17) (a : Vector Word 16) (k' : Nibble) : (s.setStack n a).getKey k' = s.getKey k' := rfl
@[simp] theorem State.byteAt_setStack (n : Fin 17) (a : Vector Word 16) (a' : Nat) : (s.setStack n a).byteAt a' = s.byteAt a' := rfl
@[simp] theorem State.memWf_setStack (n : Fin 17) (a : Vector Word 16) : (s.setStack n a).memWf = s.memWf := rfl
@[simp] theorem State.getV_storeFrom (a : Nat) (bs : List Byte) (r' : Nibble) : (s.storeFrom a bs).getV r' = s.getV r' := rfl
@[simp] theorem State.getKey_storeFrom (a : Nat) (bs : List Byte) (k' : Nibble) : (s.storeFrom a bs).getKey k' = s.getKey k' := rfl
@[simp] theorem State.getKey_setV (r : Nibble) (b : Byte) (k' : Nibble) : (s.setV r b).getKey k' = s.getKey k' := rfl
@[simp] theorem State.byteAt_setV (r : Nibble) (b : Byte) (a' : Nat) : (s.setV r b).byteAt a' = s.byteAt a' := rfl
@[simp] theorem State.memWf_setV (r : Nibble) (b : Byte) : (s.setV r b).memWf = s.memWf := rfl
@[simp] theorem State.getV_setKeyState (k : Nibble) (p : Bool) (r' : Nibble) : (s.setKeyState k p).getV r' = s.getV r' := rfl
@[simp] theorem State.byteAt_setKeyState (k : Nibble) (p : Bool) (a' : Nat) : (s.setKeyState k p).byteAt a' = s.byteAt a' := rfl
@[simp] theorem State.memWf_setKeyState (k : Nibble) (p : Bool) : (s.setKeyState k p).memWf = s.memWf := rfl
@[simp] theorem State.getV_drawn (r' : Nibble) : (s.drawn).getV r' = s.getV r' := rfl
@[simp] theorem State.getKey_drawn (k' : Nibble) : (s.drawn).getKey k' = s.getKey k' := rfl
@[simp] theorem State.byteAt_drawn (a' : Nat) : (s.drawn).byteAt a' = s.byteAt a' := rfl
@[simp] theorem State.memWf_drawn : (s.drawn).memWf = s.memWf := rfl
@[simp] theorem State.getV_enterFault (t : Trap) (r' : Nibble) : (s.enterFault t).getV r' = s.getV r' := rfl
@[simp] theorem State.getKey_enterFault (t : Trap) (k' : Nibble) : (s.enterFault t).getKey k' = s.getKey k' := rfl
@[simp] theorem State.byteAt_enterFault (t : Trap) (a' : Nat) : (s.enterFault t).byteAt a' = s.byteAt a' := rfl
@[simp] theorem State.memWf_enterFault (t : Trap) : (s.enterFault t).memWf = s.memWf := rfl
@[simp] theorem State.getV_answer (r : Reply) (r' : Nibble) : (s.answer r).getV r' = s.getV r' := rfl
@[simp] theorem State.getKey_answer (r : Reply) (k' : Nibble) : (s.answer r).getKey k' = s.getKey k' := rfl
@[simp] theorem State.byteAt_answer (r : Reply) (a' : Nat) : (s.answer r).byteAt a' = s.byteAt a' := rfl
@[simp] theorem State.memWf_answer (r : Reply) : (s.answer r).memWf = s.memWf := rfl
@[simp] theorem State.getV_tick (r' : Nibble) : (s.tick).getV r' = s.getV r' := rfl
@[simp] theorem State.getKey_tick (k' : Nibble) : (s.tick).getKey k' = s.getKey k' := rfl
@[simp] theorem State.byteAt_tick (a' : Nat) : (s.tick).byteAt a' = s.byteAt a' := rfl
@[simp] theorem State.memWf_tick : (s.tick).memWf = s.memWf := rfl
@[simp] theorem State.getV_setPending (cs : List Command) (r' : Nibble) : (s.setPending cs).getV r' = s.getV r' := rfl
@[simp] theorem State.getKey_setPending (cs : List Command) (k' : Nibble) : (s.setPending cs).getKey k' = s.getKey k' := rfl
@[simp] theorem State.byteAt_setPending (cs : List Command) (a' : Nat) : (s.setPending cs).byteAt a' = s.byteAt a' := rfl
@[simp] theorem State.memWf_setPending (cs : List Command) : (s.setPending cs).memWf = s.memWf := rfl

@[simp] theorem State.getV_setV (r : Nibble) (b : Byte) (r' : Nibble) :
    (s.setV r b).getV r' = if r' = r then b else s.getV r' := by
  simp only [State.getV, State.setV, Vector.getElem_set]
  by_cases h : r' = r
  · simp [h]
  · have : r.toNat ≠ r'.toNat := fun e => h (BitVec.eq_of_toNat_eq e.symm)
    simp [h, this]

@[simp] theorem State.getKey_setKeyState (k : Nibble) (p : Bool) (k' : Nibble) :
    (s.setKeyState k p).getKey k' = if k' = k then p else s.getKey k' := by
  simp only [State.getKey, State.setKeyState, Vector.getElem_set]
  by_cases h : k' = k
  · simp [h]
  · have : k.toNat ≠ k'.toNat := fun e => h (BitVec.eq_of_toNat_eq e.symm)
    simp [h, this]

/-- Setting back the pc undoes the fetch's advance: the key wait that found no key (44_input R182). -/
theorem State.advance_setPc_back : s.advance.setPc (s.advance.pc - 2) = s := by
  simp [State.advance, State.setPc]

/-- Two states with the same registers, read one by one, have the same register file. -/
theorem State.v_eq_of_getV {s t : State} (h : ∀ r, t.getV r = s.getV r) : t.v = s.v := by
  apply Vector.ext
  intro k hk
  have := h (BitVec.ofNat 4 k)
  simpa [State.getV, Nat.mod_eq_of_lt hk] using this

/-! ### The bulk load -/

theorem State.setVFrom_eq (bs : List Byte) : ∀ (s : State) (k : Nat),
    s.setVFrom k bs = { s with v := (s.setVFrom k bs).v } := by
  induction bs with
  | nil => intro s k; rfl
  | cons b bs ih => intro s k; simp only [State.setVFrom]; rw [ih]

/-- Register r after the bulk load of `bs` into V[k], V[k+1], ... -/
theorem State.getV_setVFrom (bs : List Byte) : ∀ (s : State) (k : Nat) (r : Nibble),
    (s.setVFrom k bs).getV r =
      if h : k ≤ r.toNat ∧ r.toNat - k < bs.length then bs[r.toNat - k]'h.2 else s.getV r := by
  induction bs with
  | nil => intro s k r; simp [State.setVFrom]
  | cons b bs ih =>
    intro s k r
    have hr := r.isLt
    simp only [State.setVFrom, ih, List.length_cons]
    by_cases h1 : k + 1 ≤ r.toNat
    · have e : r.toNat - k = (r.toNat - (k + 1)) + 1 := by omega
      have hne : k ≠ r.toNat := by omega
      by_cases h2 : r.toNat - (k + 1) < bs.length
      · rw [dif_pos ⟨h1, h2⟩, dif_pos ⟨by omega, by omega⟩]
        simp only [e, List.getElem_cons_succ]
      · rw [dif_neg (by omega), dif_neg (by omega)]
        simp [State.getV, hne]
    · rw [dif_neg (by omega)]
      by_cases h3 : k = r.toNat
      · subst h3
        simp [State.getV]
      · rw [dif_neg (by omega)]
        simp [State.getV, h3]

@[simp] theorem State.setVFrom_pc (k : Nat) (bs : List Byte) : (s.setVFrom k bs).pc = s.pc := by
  rw [State.setVFrom_eq]
@[simp] theorem State.setVFrom_idx (k : Nat) (bs : List Byte) : (s.setVFrom k bs).idx = s.idx := by
  rw [State.setVFrom_eq]
@[simp] theorem State.setVFrom_sp (k : Nat) (bs : List Byte) : (s.setVFrom k bs).sp = s.sp := by
  rw [State.setVFrom_eq]
@[simp] theorem State.setVFrom_stack (k : Nat) (bs : List Byte) : (s.setVFrom k bs).stack = s.stack := by
  rw [State.setVFrom_eq]
@[simp] theorem State.setVFrom_dt (k : Nat) (bs : List Byte) : (s.setVFrom k bs).dt = s.dt := by
  rw [State.setVFrom_eq]
@[simp] theorem State.setVFrom_st (k : Nat) (bs : List Byte) : (s.setVFrom k bs).st = s.st := by
  rw [State.setVFrom_eq]
@[simp] theorem State.setVFrom_keys (k : Nat) (bs : List Byte) : (s.setVFrom k bs).keys = s.keys := by
  rw [State.setVFrom_eq]
@[simp] theorem State.setVFrom_disp (k : Nat) (bs : List Byte) : (s.setVFrom k bs).disp = s.disp := by
  rw [State.setVFrom_eq]
@[simp] theorem State.setVFrom_mem (k : Nat) (bs : List Byte) : (s.setVFrom k bs).mem = s.mem := by
  rw [State.setVFrom_eq]
@[simp] theorem State.setVFrom_status (k : Nat) (bs : List Byte) : (s.setVFrom k bs).status = s.status := by
  rw [State.setVFrom_eq]
@[simp] theorem State.setVFrom_cause (k : Nat) (bs : List Byte) : (s.setVFrom k bs).cause = s.cause := by
  rw [State.setVFrom_eq]
@[simp] theorem State.setVFrom_info (k : Nat) (bs : List Byte) : (s.setVFrom k bs).info = s.info := by
  rw [State.setVFrom_eq]
@[simp] theorem State.setVFrom_params (k : Nat) (bs : List Byte) : (s.setVFrom k bs).params = s.params := by
  rw [State.setVFrom_eq]
@[simp] theorem State.setVFrom_outside (k : Nat) (bs : List Byte) : (s.setVFrom k bs).outside = s.outside := by
  rw [State.setVFrom_eq]
@[simp] theorem State.getKey_setVFrom (k : Nat) (bs : List Byte) (k' : Nibble) : (s.setVFrom k bs).getKey k' = s.getKey k' := by
  simp [State.getKey]
@[simp] theorem State.byteAt_setVFrom (k : Nat) (bs : List Byte) (a' : Nat) : (s.setVFrom k bs).byteAt a' = s.byteAt a' := by
  simp [State.byteAt]
@[simp] theorem State.memWf_setVFrom (k : Nat) (bs : List Byte) : (s.setVFrom k bs).memWf = s.memWf := by
  simp [State.memWf]

end Sys2Proof.Machine
end

