-- ==== Sys2Proof/Laws/Ops.lean ====
section
/-! SUPPORT. Everything each shared operation can do, one lemma each: the stack, skips, raising a fault, storing at I, the
operand forms. -/

namespace Sys2Proof.Machine

/-- Raising a fault always goes on, in the latched state (60_exceptions R226). -/
theorem raise_eq (s : State) (t : Trap) : raise s t = .next (s.enterFault t) := rfl

/-- A push (10_state R29). -/
theorem State.push_cases (s : State) (w : Word) :
    (∃ h : s.sp.val < 16, s.push w =
      .ok (s.setStack ⟨s.sp.val + 1, by omega⟩ (s.stack.set s.sp.val w h))) ∨
    (s.sp.val = 16 ∧ s.push w = .error { cause := .stackOverflow, info := 16 }) := by
  by_cases h : s.sp.val < 16
  · exact .inl ⟨h, by simp [State.push, h]⟩
  · exact .inr ⟨by have := s.sp.isLt; omega, by simp [State.push, h]⟩

/-- A pop (10_state R29). -/
theorem State.pop_cases (s : State) :
    (∃ h : 0 < s.sp.val, s.pop =
      .ok (s.stack[s.sp.val - 1]'(by omega), s.setStack ⟨s.sp.val - 1, by omega⟩ s.stack)) ∨
    (s.sp.val = 0 ∧ s.pop = .error { cause := .stackUnderflow, info := 0 }) := by
  by_cases h : 0 < s.sp.val
  · exact .inl ⟨h, by simp [State.pop, h]⟩
  · exact .inr ⟨by omega, by simp [State.pop, h]⟩

/-- A skip always goes on, and moves only the pc (40_control_flow R120). -/
theorem skipIf_eq (b : Bool) (s : State) : skipIf b s = .next (s.setPc (if b then s.pc + 4 else s.pc + 2)) := by
  cases b
  · rfl
  · simp [skipIf, State.advance, State.setPc, BitVec.add_assoc]

/-- Storing at I (46_index_bcd_bulk R201, R202). -/
theorem storeAtIdx_cases (bs : List Byte) (s : State) :
    ((bs = [] ∨ s.idx.toNat + bs.length ≤ 0x1000) ∧
      storeAtIdx bs s = .next (s.storeFrom s.idx.toNat bs).advance) ∨
    ((bs ≠ [] ∧ 0x1000 < s.idx.toNat + bs.length) ∧
      storeAtIdx bs s = .next (s.enterFault (memOobAt (max s.idx.toNat 0x1000)))) := by
  rcases memWriteAll_cases s.params.font s.mem s.idx.toNat bs with ⟨h, e⟩ | ⟨h, e⟩
  · exact .inl ⟨h, by simp [storeAtIdx, e]; rfl⟩
  · exact .inr ⟨h, by simp [storeAtIdx, e, raise]⟩

@[simp] theorem length_bcdDigits (b : Byte) : (bcdDigits b).length = 3 := rfl

@[simp] theorem length_registerRange (s : State) (x : Nibble) : (registerRange s x).length = x.toNat + 1 := by
  have := x.isLt
  simp [registerRange]
  omega

/-- Byte k of the register range is V[k] (R202). -/
theorem getElem_registerRange (s : State) (x : Nibble) (k : Nat) (h : k < (registerRange s x).length) :
    (registerRange s x)[k] = s.getV (BitVec.ofNat 4 k) := by
  have hk : k < 16 := by
    have := x.isLt
    simp at h
    omega
  simp [registerRange, State.getV, Nat.mod_eq_of_lt hk]

theorem toNat_zextAddr (nnn : Addr12) : (zextAddr nnn).toNat = nnn.toNat := by
  have := nnn.isLt
  simp [zextAddr]
  omega

theorem toNat_zextByte (b : Byte) : (zextByte b).toNat = b.toNat := by
  have := b.isLt
  simp [zextByte]
  omega

/-- The key an index byte names (44_input R180). -/
theorem keyOfByte_cases (b : Byte) :
    (b.toNat ≤ 15 ∧ ∃ k, keyOfByte b = some k ∧ k.toNat = b.toNat) ∨ (15 < b.toNat ∧ keyOfByte b = none) := by
  by_cases h : b.toNat > 15
  · exact .inr ⟨h, by simp [keyOfByte, h]⟩
  · exact .inl ⟨by omega, _, by simp [keyOfByte, h]; rfl, by simp; omega⟩

/-- 5 * (b & 0xF), 0 to 75 (42_addressing R162). -/
theorem toNat_glyphAddr (b : Byte) : (glyphAddr b).toNat = 5 * (b.toNat % 16) := by
  have h : (b &&& 0x0F).toNat = b.toNat % 16 := by
    rw [BitVec.toNat_and]
    exact Nat.and_two_pow_sub_one_eq_mod b.toNat 4
  simp only [glyphAddr, BitVec.toNat_mul, toNat_zextByte, h]
  simp
  omega

theorem flagByte_cases (b : Bool) : flagByte b = 0 ∨ flagByte b = 1 := by cases b <;> simp [flagByte]

/-- Registers after the result write and the flag write (41_arithmetic R141). -/
@[simp] theorem State.getV_setResultAndFlag (s : State) (x : Nibble) (r f : Byte) (r' : Nibble) :
    (s.setResultAndFlag x r f).getV r' = if r' = flagReg then f else if r' = x then r else s.getV r' := by
  simp [State.setResultAndFlag]

@[simp] theorem State.setResultAndFlag_pc (s : State) (x : Nibble) (r f : Byte) :
    (s.setResultAndFlag x r f).pc = s.pc := rfl
@[simp] theorem State.setResultAndFlag_idx (s : State) (x : Nibble) (r f : Byte) :
    (s.setResultAndFlag x r f).idx = s.idx := rfl
@[simp] theorem State.setResultAndFlag_sp (s : State) (x : Nibble) (r f : Byte) :
    (s.setResultAndFlag x r f).sp = s.sp := rfl
@[simp] theorem State.setResultAndFlag_stack (s : State) (x : Nibble) (r f : Byte) :
    (s.setResultAndFlag x r f).stack = s.stack := rfl
@[simp] theorem State.setResultAndFlag_dt (s : State) (x : Nibble) (r f : Byte) :
    (s.setResultAndFlag x r f).dt = s.dt := rfl
@[simp] theorem State.setResultAndFlag_st (s : State) (x : Nibble) (r f : Byte) :
    (s.setResultAndFlag x r f).st = s.st := rfl
@[simp] theorem State.setResultAndFlag_keys (s : State) (x : Nibble) (r f : Byte) :
    (s.setResultAndFlag x r f).keys = s.keys := rfl
@[simp] theorem State.setResultAndFlag_disp (s : State) (x : Nibble) (r f : Byte) :
    (s.setResultAndFlag x r f).disp = s.disp := rfl
@[simp] theorem State.setResultAndFlag_mem (s : State) (x : Nibble) (r f : Byte) :
    (s.setResultAndFlag x r f).mem = s.mem := rfl
@[simp] theorem State.setResultAndFlag_status (s : State) (x : Nibble) (r f : Byte) :
    (s.setResultAndFlag x r f).status = s.status := rfl
@[simp] theorem State.setResultAndFlag_cause (s : State) (x : Nibble) (r f : Byte) :
    (s.setResultAndFlag x r f).cause = s.cause := rfl
@[simp] theorem State.setResultAndFlag_info (s : State) (x : Nibble) (r f : Byte) :
    (s.setResultAndFlag x r f).info = s.info := rfl
@[simp] theorem State.setResultAndFlag_params (s : State) (x : Nibble) (r f : Byte) :
    (s.setResultAndFlag x r f).params = s.params := rfl
@[simp] theorem State.byteAt_setResultAndFlag (s : State) (x : Nibble) (r f : Byte) (a : Nat) :
    (s.setResultAndFlag x r f).byteAt a = s.byteAt a := rfl
@[simp] theorem State.memWf_setResultAndFlag (s : State) (x : Nibble) (r f : Byte) :
    (s.setResultAndFlag x r f).memWf = s.memWf := rfl
@[simp] theorem State.setResultAndFlag_outside (s : State) (x : Nibble) (r f : Byte) :
    (s.setResultAndFlag x r f).outside = s.outside := rfl
@[simp] theorem State.getKey_setResultAndFlag (s : State) (x : Nibble) (r f : Byte) (k : Nibble) :
    (s.setResultAndFlag x r f).getKey k = s.getKey k := rfl

end Sys2Proof.Machine
end

