-- ==== Sys2Proof/Laws/Exec.lean ====
section
/-! SUPPORT. Everything each meaning that branches can do, one lemma each; the other meanings are one equation by
definition. -/

namespace Sys2Proof.Machine

/-- RET (40_control_flow R123). -/
theorem execRet_cases (s : State) :
    (∃ h : 0 < s.sp.val, execRet s =
      .next ((s.setStack ⟨s.sp.val - 1, by omega⟩ s.stack).setPc (s.stack[s.sp.val - 1]'(by omega)))) ∨
    (s.sp.val = 0 ∧ execRet s = .next (s.enterFault { cause := .stackUnderflow, info := 0 })) := by
  rcases s.pop_cases with ⟨h, e⟩ | ⟨h, e⟩
  · exact .inl ⟨h, by simp only [execRet, e]⟩
  · exact .inr ⟨h, by simp only [execRet, e]; rfl⟩

/-- CALL nnn (R125). -/
theorem execCall_cases (nnn : Addr12) (s : State) :
    (∃ h : s.sp.val < 16, execCall nnn s =
      .next ((s.setStack ⟨s.sp.val + 1, by omega⟩ (s.stack.set s.sp.val (s.pc + 2) h)).setPc (zextAddr nnn))) ∨
    (s.sp.val = 16 ∧ execCall nnn s = .next (s.enterFault { cause := .stackOverflow, info := 16 })) := by
  rcases s.push_cases s.advance.pc with ⟨h, e⟩ | ⟨h, e⟩
  · exact .inl ⟨h, by simp only [execCall, e]; rfl⟩
  · exact .inr ⟨h, by simp only [execCall, e]; rfl⟩

/-- DRW Vx, Vy, n (43_display R171). -/
theorem execDrw_cases (x y n : Nibble) (s : State) :
    ((n.toNat = 0 ∨ s.idx.toNat + n.toNat ≤ 0x1000) ∧ execDrw x y n s =
      .next ((s.setDisp (drawSprite s.disp (s.getV x).toNat (s.getV y).toNat (spriteRows s n.toNat)).1).setV flagReg
        (flagByte (drawSprite s.disp (s.getV x).toNat (s.getV y).toNat (spriteRows s n.toNat)).2)).advance) ∨
    ((n.toNat ≠ 0 ∧ 0x1000 < s.idx.toNat + n.toNat) ∧
      execDrw x y n s = .next (s.enterFault (memOobAt (max s.idx.toNat 0x1000)))) := by
  rcases memReadAll_cases s.params.font s.mem s.idx.toNat n.toNat with ⟨h, e⟩ | ⟨h, e⟩
  · exact .inl ⟨h, by simp only [execDrw, e]; rfl⟩
  · exact .inr ⟨h, by simp only [execDrw, e]; rfl⟩

/-- SKP Vx (44_input R180). -/
theorem execSkp_cases (x : Nibble) (s : State) :
    (∃ k : Nibble, k.toNat = (s.getV x).toNat ∧ execSkp x s = skipIf (s.getKey k) s) ∨
    (15 < (s.getV x).toNat ∧ execSkp x s = .next (s.enterFault (keyIndexTrap (s.getV x)))) := by
  rcases keyOfByte_cases (s.getV x) with ⟨_, k, e, hk⟩ | ⟨h, e⟩
  · exact .inl ⟨k, hk, by simp only [execSkp, e]⟩
  · exact .inr ⟨h, by simp only [execSkp, e]; rfl⟩

/-- SKNP Vx (R181). -/
theorem execSknp_cases (x : Nibble) (s : State) :
    (∃ k : Nibble, k.toNat = (s.getV x).toNat ∧ execSknp x s = skipIf (!s.getKey k) s) ∨
    (15 < (s.getV x).toNat ∧ execSknp x s = .next (s.enterFault (keyIndexTrap (s.getV x)))) := by
  rcases keyOfByte_cases (s.getV x) with ⟨_, k, e, hk⟩ | ⟨h, e⟩
  · exact .inl ⟨k, hk, by simp only [execSknp, e]⟩
  · exact .inr ⟨h, by simp only [execSknp, e]; rfl⟩

theorem allKeys_eq : allKeys = [0, 1, 2, 3, 4, 5, 6, 7, 8, 9, 10, 11, 12, 13, 14, 15] := rfl

/-- No key is the lowest pressed when none is pressed (R182). -/
theorem lowestPressed_none {s : State} (h : ∀ k, s.getKey k = false) : lowestPressed s = none := by
  simp [lowestPressed, List.find?_eq_none, h]

/-- The lowest pressed key is pressed, and none below it is (R182). -/
theorem lowestPressed_some {s : State} {k : Nibble} (h : lowestPressed s = some k) :
    s.getKey k = true ∧ ∀ j : Nibble, j.toNat < k.toNat → s.getKey j = false := by
  obtain ⟨hk, i, hi, hik, hlt⟩ := List.find?_eq_some_iff_getElem.mp h
  refine ⟨hk, fun j hj => ?_⟩
  simp only [allKeys, List.length_map, List.length_range, List.getElem_map, List.getElem_range] at hi hik hlt
  have hi' : k.toNat = i := by rw [← hik]; simp; omega
  have := hlt j.toNat (by omega)
  simpa using this

/-- LD Vx, K (R182). -/
theorem execLdKey_cases (x : Nibble) (s : State) :
    (∃ k, lowestPressed s = some k ∧ execLdKey x s = .next (s.setV x (k.zeroExtend 8)).advance) ∨
    ((∀ k, s.getKey k = false) ∧ execLdKey x s = .next s) := by
  cases h : lowestPressed s with
  | some k => exact .inl ⟨k, rfl, by simp only [execLdKey, h]⟩
  | none =>
    refine .inr ⟨fun k => ?_, by simp only [execLdKey, h, State.advance_setPc_back]⟩
    have hk := List.find?_eq_none.mp h k (by
      simp only [allKeys, List.mem_map, List.mem_range]
      exact ⟨k.toNat, k.isLt, by simp⟩)
    simpa using hk

/-- LD Vx, [I] (46_index_bcd_bulk R203). -/
theorem execLoadRegs_cases (x : Nibble) (s : State) :
    (s.idx.toNat + x.toNat ≤ 0xFFF ∧ execLoadRegs x s =
      .next (s.setVFrom 0 ((List.range (x.toNat + 1)).map fun k => s.byteAt (s.idx.toNat + k))).advance) ∨
    (0xFFF < s.idx.toNat + x.toNat ∧
      execLoadRegs x s = .next (s.enterFault (memOobAt (max s.idx.toNat 0x1000)))) := by
  rcases memReadAll_cases s.params.font s.mem s.idx.toNat (x.toNat + 1) with ⟨h, e⟩ | ⟨h, e⟩
  · exact .inl ⟨by omega, by simp only [execLoadRegs, e]; rfl⟩
  · exact .inr ⟨by omega, by simp only [execLoadRegs, e]; rfl⟩

end Sys2Proof.Machine
end

