-- ==== Sys2Proof/Laws/PerInstr.lean ====
section
/-! SUPPORT. One lemma per instruction: its encoded word lies in its row of the opcode map, `w &&& mask = match`
(spec 30_encoding R94, R95). -/

namespace Sys2Proof

theorem packXYN_and (op x y n op' x' y' n' : Nibble) :
    packXYN op x y n &&& packXYN op' x' y' n' = packXYN (op &&& op') (x &&& x') (y &&& y') (n &&& n') := by
  simp only [packXYN]
  exact (BitVec.and_append ..).trans (by rw [BitVec.and_append, BitVec.and_append])

theorem packXNN_and (op x op' x' : Nibble) (nn nn' : Byte) :
    packXNN op x nn &&& packXNN op' x' nn' = packXNN (op &&& op') (x &&& x') (nn &&& nn') := by
  simp only [packXNN]
  exact (BitVec.and_append ..).trans (by rw [BitVec.and_append])

theorem packNNN_and (op op' : Nibble) (nnn nnn' : Addr12) :
    packNNN op nnn &&& packNNN op' nnn' = packNNN (op &&& op') (nnn &&& nnn') := by
  simp only [packNNN]
  exact BitVec.and_append ..

/-- The masks of R95, as packed words. -/
theorem mask_F00F : (0xF00F : Word) = packXYN 0xF 0 0 0xF := rfl
theorem mask_F0FF : (0xF0FF : Word) = packXNN 0xF 0 0xFF := rfl
theorem mask_F000_XYN : (0xF000 : Word) = packXYN 0xF 0 0 0 := rfl
theorem mask_F000_XNN : (0xF000 : Word) = packXNN 0xF 0 0 := rfl
theorem mask_F000_NNN : (0xF000 : Word) = packNNN 0xF 0 := rfl

theorem and_zero_nibble (a : Nibble) : a &&& 0 = 0 := BitVec.and_zero
theorem and_zero_byte (a : Byte) : a &&& 0 = 0 := BitVec.and_zero
theorem and_zero_addr (a : Addr12) : a &&& 0 = 0 := BitVec.and_zero

namespace Laws.RowMatch

/-- The word of `i` lies in the row of `i` (R94: row r matches when `w & mask_r = match_r`). -/
def Statement (i : Instr) : Prop := encode i &&& i.rowMask = i.rowMatch


theorem nop : Statement .nop := rfl

theorem cls : Statement .cls := rfl

theorem ret : Statement .ret := rfl

theorem jp (nnn : Addr12) : Statement (.jp nnn) := by
  simp only [Statement, encode, Instr.rowMask, Instr.rowMatch, mask_F000_NNN, packNNN_and, and_zero_addr]
  rfl

theorem call (nnn : Addr12) : Statement (.call nnn) := by
  simp only [Statement, encode, Instr.rowMask, Instr.rowMatch, mask_F000_NNN, packNNN_and, and_zero_addr]
  rfl

theorem seImm (x : Nibble) (kk : Byte) : Statement (.seImm x kk) := by
  simp only [Statement, encode, Instr.rowMask, Instr.rowMatch, mask_F000_XNN, packXNN_and, and_zero_nibble, and_zero_byte]
  rfl

theorem sneImm (x : Nibble) (kk : Byte) : Statement (.sneImm x kk) := by
  simp only [Statement, encode, Instr.rowMask, Instr.rowMatch, mask_F000_XNN, packXNN_and, and_zero_nibble, and_zero_byte]
  rfl

theorem seReg (x : Nibble) (y : Nibble) : Statement (.seReg x y) := by
  simp only [Statement, encode, Instr.rowMask, Instr.rowMatch, mask_F00F, packXYN_and, and_zero_nibble]
  rfl

theorem sneReg (x : Nibble) (y : Nibble) : Statement (.sneReg x y) := by
  simp only [Statement, encode, Instr.rowMask, Instr.rowMatch, mask_F00F, packXYN_and, and_zero_nibble]
  rfl

theorem jpV0 (nnn : Addr12) : Statement (.jpV0 nnn) := by
  simp only [Statement, encode, Instr.rowMask, Instr.rowMatch, mask_F000_NNN, packNNN_and, and_zero_addr]
  rfl

theorem ldImm (x : Nibble) (kk : Byte) : Statement (.ldImm x kk) := by
  simp only [Statement, encode, Instr.rowMask, Instr.rowMatch, mask_F000_XNN, packXNN_and, and_zero_nibble, and_zero_byte]
  rfl

theorem addImm (x : Nibble) (kk : Byte) : Statement (.addImm x kk) := by
  simp only [Statement, encode, Instr.rowMask, Instr.rowMatch, mask_F000_XNN, packXNN_and, and_zero_nibble, and_zero_byte]
  rfl

theorem ldReg (x : Nibble) (y : Nibble) : Statement (.ldReg x y) := by
  simp only [Statement, encode, Instr.rowMask, Instr.rowMatch, mask_F00F, packXYN_and, and_zero_nibble]
  rfl

theorem orReg (x : Nibble) (y : Nibble) : Statement (.orReg x y) := by
  simp only [Statement, encode, Instr.rowMask, Instr.rowMatch, mask_F00F, packXYN_and, and_zero_nibble]
  rfl

theorem andReg (x : Nibble) (y : Nibble) : Statement (.andReg x y) := by
  simp only [Statement, encode, Instr.rowMask, Instr.rowMatch, mask_F00F, packXYN_and, and_zero_nibble]
  rfl

theorem xorReg (x : Nibble) (y : Nibble) : Statement (.xorReg x y) := by
  simp only [Statement, encode, Instr.rowMask, Instr.rowMatch, mask_F00F, packXYN_and, and_zero_nibble]
  rfl

theorem addReg (x : Nibble) (y : Nibble) : Statement (.addReg x y) := by
  simp only [Statement, encode, Instr.rowMask, Instr.rowMatch, mask_F00F, packXYN_and, and_zero_nibble]
  rfl

theorem subReg (x : Nibble) (y : Nibble) : Statement (.subReg x y) := by
  simp only [Statement, encode, Instr.rowMask, Instr.rowMatch, mask_F00F, packXYN_and, and_zero_nibble]
  rfl

theorem subnReg (x : Nibble) (y : Nibble) : Statement (.subnReg x y) := by
  simp only [Statement, encode, Instr.rowMask, Instr.rowMatch, mask_F00F, packXYN_and, and_zero_nibble]
  rfl

theorem shr (x : Nibble) : Statement (.shr x) := by
  simp only [Statement, encode, Instr.rowMask, Instr.rowMatch, mask_F00F, packXYN_and, and_zero_nibble]
  rfl

theorem shl (x : Nibble) : Statement (.shl x) := by
  simp only [Statement, encode, Instr.rowMask, Instr.rowMatch, mask_F00F, packXYN_and, and_zero_nibble]
  rfl

theorem ldI (nnn : Addr12) : Statement (.ldI nnn) := by
  simp only [Statement, encode, Instr.rowMask, Instr.rowMatch, mask_F000_NNN, packNNN_and, and_zero_addr]
  rfl

theorem rnd (x : Nibble) (kk : Byte) : Statement (.rnd x kk) := by
  simp only [Statement, encode, Instr.rowMask, Instr.rowMatch, mask_F000_XNN, packXNN_and, and_zero_nibble, and_zero_byte]
  rfl

theorem ldF (x : Nibble) : Statement (.ldF x) := by
  simp only [Statement, encode, Instr.rowMask, Instr.rowMatch, mask_F0FF, packXNN_and, and_zero_nibble]
  rfl

theorem drw (x : Nibble) (y : Nibble) (n : Nibble) : Statement (.drw x y n) := by
  simp only [Statement, encode, Instr.rowMask, Instr.rowMatch, mask_F000_XYN, packXYN_and, and_zero_nibble]
  rfl

theorem skp (x : Nibble) : Statement (.skp x) := by
  simp only [Statement, encode, Instr.rowMask, Instr.rowMatch, mask_F0FF, packXNN_and, and_zero_nibble]
  rfl

theorem sknp (x : Nibble) : Statement (.sknp x) := by
  simp only [Statement, encode, Instr.rowMask, Instr.rowMatch, mask_F0FF, packXNN_and, and_zero_nibble]
  rfl

theorem ldKey (x : Nibble) : Statement (.ldKey x) := by
  simp only [Statement, encode, Instr.rowMask, Instr.rowMatch, mask_F0FF, packXNN_and, and_zero_nibble]
  rfl

theorem ldFromDt (x : Nibble) : Statement (.ldFromDt x) := by
  simp only [Statement, encode, Instr.rowMask, Instr.rowMatch, mask_F0FF, packXNN_and, and_zero_nibble]
  rfl

theorem ldDt (x : Nibble) : Statement (.ldDt x) := by
  simp only [Statement, encode, Instr.rowMask, Instr.rowMatch, mask_F0FF, packXNN_and, and_zero_nibble]
  rfl

theorem ldSt (x : Nibble) : Statement (.ldSt x) := by
  simp only [Statement, encode, Instr.rowMask, Instr.rowMatch, mask_F0FF, packXNN_and, and_zero_nibble]
  rfl

theorem addI (x : Nibble) : Statement (.addI x) := by
  simp only [Statement, encode, Instr.rowMask, Instr.rowMatch, mask_F0FF, packXNN_and, and_zero_nibble]
  rfl

theorem ldB (x : Nibble) : Statement (.ldB x) := by
  simp only [Statement, encode, Instr.rowMask, Instr.rowMatch, mask_F0FF, packXNN_and, and_zero_nibble]
  rfl

theorem storeRegs (x : Nibble) : Statement (.storeRegs x) := by
  simp only [Statement, encode, Instr.rowMask, Instr.rowMatch, mask_F0FF, packXNN_and, and_zero_nibble]
  rfl

theorem loadRegs (x : Nibble) : Statement (.loadRegs x) := by
  simp only [Statement, encode, Instr.rowMask, Instr.rowMatch, mask_F0FF, packXNN_and, and_zero_nibble]
  rfl

end Laws.RowMatch

end Sys2Proof
end

