-- ==== Sys2Proof/Laws/Step.lean ====
section
/-! SUPPORT. Everything a STEP and the next command can do (spec 10_state R35, R37). -/

namespace Sys2Proof.Machine

/-- Everything a STEP can do (R37, 60_exceptions R229). -/
theorem stepCommand_cases (s : State) :
    (s.status = .faulted ∧ stepCommand s = .next s) ∨
    (s.status = .running ∧ 0xFFE < s.pc.toNat ∧
      stepCommand s = .next (s.enterFault (memOobAt (max s.pc.toNat 0x1000)))) ∨
    (s.status = .running ∧ s.pc.toNat ≤ 0xFFE ∧ fetch16 s.params.font s.mem s.pc.toNat = .ok (fetchedWord s) ∧
      ((∃ e, decodeWord s.params.jpV0Implemented (fetchedWord s) = .error e ∧
        stepCommand s = .next (s.enterFault { cause := .illegalOpcode, info := fetchedWord s })) ∨
      (∃ i, decodeWord s.params.jpV0Implemented (fetchedWord s) = .ok i ∧ stepCommand s = exec i s))) := by
  cases hs : s.status with
  | faulted => exact .inl ⟨rfl, by simp [stepCommand, hs]⟩
  | running =>
    rcases s.fetch_cases with ⟨h, e⟩ | ⟨h, e⟩
    · refine .inr (.inr ⟨rfl, h, e, ?_⟩)
      cases hd : decodeWord s.params.jpV0Implemented (fetchedWord s) with
      | error er => exact .inl ⟨er, rfl, by simp [stepCommand, hs, e, hd, raise]⟩
      | ok i => exact .inr ⟨i, rfl, by simp [stepCommand, hs, e, hd]⟩
    · exact .inr (.inl ⟨rfl, h, by simp [stepCommand, hs, e, raise]⟩)

/-- With nothing pending the next command is STEP. -/
theorem step_of_pending_nil {s : State} (h : s.outside.pending = []) :
    step s = stepCommand s := by
  simp [step, nextCommand, h, runCommand]

/-- Otherwise it is the oldest pending command. -/
theorem step_of_pending_cons {s : State} {c : Command} {rest : List Command} (h : s.outside.pending = c :: rest) :
    step s = runCommand c (s.setPending rest) := by
  simp [step, nextCommand, h]

end Sys2Proof.Machine
end

