-- ==== Sys2Proof/Tests/Slice0.lean ====
section
/-! SUPPORT. Our own tests, each expected value from spec/95_test_vectors (E, T, P numbers), and the witnesses that meet
the hypotheses of the statements. -/

namespace Sys2Proof.Tests

open Sys2Proof.Machine

/-! ## Helpers -/

/-- The reset state with some registers set. -/
def withV (vs : List (Nibble × Byte)) : State := vs.foldl (fun s p => s.setV p.1 p.2) State.reset

/-- `s` with bytes stored from `a` upward. -/
def bytesAt (a : Nat) (bs : List Byte) (s : State) : State := s.storeFrom a bs

/-- `s` with `n` return addresses `w` on the stack. -/
def withStack (n : Fin 17) (w : Word) (s : State) : State := { s with sp := n, stack := Vector.replicate 16 w }

/-- `s` with one more command pending. -/
def withCommand (c : Command) (s : State) : State := s.setPending [c]

/-- `p` holds of the state a result goes on to. -/
def goesOn (r : Result) (p : State → Bool) : Bool :=
  match r with
  | .next t => p t
  | .fault _ => false
  | .refused _ => false

/-- `p` holds after the one STEP that fetches the word `w` at the pc of `s`. -/
def afterWord (w : Nat) (s : State) (p : State → Bool) : Bool := goesOn (step (s.withFetchWord 16 w)) p

/-- `p` holds after the command `c`. -/
def afterCommand (c : Command) (s : State) (p : State → Bool) : Bool := goesOn (step (withCommand c s)) p

/-- The latch holds this fault and pc is `pc`. -/
def faultedWith (cause : FaultCause) (info pc : Word) (t : State) : Bool :=
  t.status == .faulted && t.cause == cause && t.info == info && t.pc == pc

/-! ## Well-formedness (R130) -/

theorem test_jpV0_ill_formed_without_parameter : Instr.wellFormed false (.jpV0 0x300) = false := by decide
theorem test_jpV0_well_formed_with_parameter : Instr.wellFormed true (.jpV0 0x300) = true := by decide

/-! ## Decoding: words written out from the encoding column of R95 -/

theorem test_decode_control :
    decodeTableWord 16 0b0000000000000000 = some .nop ∧ decodeTableWord 16 0b0000000011100000 = some .cls ∧
    decodeTableWord 16 0b0000000011101110 = some .ret ∧ decodeTableWord 16 0b0001101010111100 = some (.jp 0xABC) ∧
    decodeTableWord 16 0b0010001000010000 = some (.call 0x210) ∧
    decodeTableWord 16 0b0011101001011100 = some (.seImm 0xA 0x5C) ∧
    decodeTableWord 16 0b0100001100010001 = some (.sneImm 0x3 0x11) ∧
    decodeTableWord 16 0b0101000100100000 = some (.seReg 0x1 0x2) ∧
    decodeTableWord 16 0b1001000100100000 = some (.sneReg 0x1 0x2) ∧
    decodeTableWord 16 0b1011001100000000 = some (.jpV0 0x300) := by decide

theorem test_decode_arithmetic :
    decodeTableWord 16 0b0110111100000111 = some (.ldImm 0xF 0x07) ∧
    decodeTableWord 16 0b0111000000000010 = some (.addImm 0x0 0x02) ∧
    decodeTableWord 16 0b1000000100100000 = some (.ldReg 0x1 0x2) ∧
    decodeTableWord 16 0b1000000100100001 = some (.orReg 0x1 0x2) ∧
    decodeTableWord 16 0b1000000100100010 = some (.andReg 0x1 0x2) ∧
    decodeTableWord 16 0b1000000100100011 = some (.xorReg 0x1 0x2) ∧
    decodeTableWord 16 0b1000111100010100 = some (.addReg 0xF 0x1) ∧
    decodeTableWord 16 0b1000000000010101 = some (.subReg 0x0 0x1) ∧
    decodeTableWord 16 0b1000000100100111 = some (.subnReg 0x1 0x2) ∧
    decodeTableWord 16 0b1000001101110110 = some (.shr 0x3) ∧
    decodeTableWord 16 0b1000111100001110 = some (.shl 0xF) := by decide

theorem test_decode_rest :
    decodeTableWord 16 0b1010001100000000 = some (.ldI 0x300) ∧
    decodeTableWord 16 0b1100000100001111 = some (.rnd 0x1 0x0F) ∧
    decodeTableWord 16 0b1111000000101001 = some (.ldF 0x0) ∧
    decodeTableWord 16 0b1101000100100101 = some (.drw 0x1 0x2 0x5) ∧
    decodeTableWord 16 0b1110010010011110 = some (.skp 0x4) ∧ decodeTableWord 16 0b1110010010100001 = some (.sknp 0x4) ∧
    decodeTableWord 16 0b1111010100001010 = some (.ldKey 0x5) ∧
    decodeTableWord 16 0b1111000100000111 = some (.ldFromDt 0x1) ∧
    decodeTableWord 16 0b1111001000010101 = some (.ldDt 0x2) ∧ decodeTableWord 16 0b1111001100011000 = some (.ldSt 0x3) ∧
    decodeTableWord 16 0b1111001000011110 = some (.addI 0x2) ∧ decodeTableWord 16 0b1111101000110011 = some (.ldB 0xA) ∧
    decodeTableWord 16 0b1111001001010101 = some (.storeRegs 0x2) ∧
    decodeTableWord 16 0b1111111101100101 = some (.loadRegs 0xF) := by decide

/-- T124. -/
theorem test_decode_illegal :
    ∀ w ∈ ([0x0001, 0x00E1, 0x5121, 0x9001, 0x8008, 0x800F, 0xE000, 0xF000, 0xF075] : List Nat),
      decodeTableWord 16 w = none := by decide

/-- One byte is no instruction (R90). -/
theorem test_decode_truncated : (decode true [0x60]).isOk = false := by decide

/-- A byte behind the instruction is given back (R90). -/
theorem test_decode_rest_returned : decode true [0x60, 0x01, 0x7A] = .ok (.ldImm 0 1, [0x7A]) := by rfl

/-! ## Control flow -/

/-- T1. -/
theorem test_nop : afterWord 0x0000 State.reset (fun t => t.pc == 0x202) = true := by decide
/-- T2. -/
theorem test_cls : afterWord 0x00E0 { State.reset with disp := State.reset.disp.set 0 0x20 }
    (fun t => t.disp == Display.clear && t.pc == 0x202 && t.getV 0xF == 0) = true := by decide
/-- T3. -/
theorem test_ret : afterWord 0x00EE ((withStack 1 0x020A State.reset).setPc 0x212)
    (fun t => t.sp == 0 && t.pc == 0x20A && t.stack[0] == 0x020A) = true := by decide
/-- T4. -/
theorem test_ret_underflow : afterWord 0x00EE State.reset (faultedWith .stackUnderflow 0 0x200) = true := by decide
/-- T5, T6. -/
theorem test_jp : (afterWord 0x1ABC State.reset (fun t => t.pc == 0xABC) &&
    afterWord 0x1200 State.reset (fun t => t.pc == 0x200)) = true := by decide
/-- T7. -/
theorem test_call : afterWord 0x2210 (State.reset.setPc 0x208)
    (fun t => t.stack[0] == 0x020A && t.sp == 1 && t.pc == 0x210) = true := by decide
/-- T8. -/
theorem test_call_overflow : afterWord 0x2300 (withStack 16 0x0202 State.reset)
    (fun t => faultedWith .stackOverflow 16 0x200 t && t.sp == 16) = true := by decide
/-- T9, T10. -/
theorem test_seImm : (afterWord 0x3000 State.reset (fun t => t.pc == 0x204) &&
    afterWord 0x3000 (withV [(0, 1)]) (fun t => t.pc == 0x202)) = true := by decide
/-- T22: a skip out of memory is no fault. -/
theorem test_seImm_at_top : afterWord 0x3000 (State.reset.setPc 0xFFE)
    (fun t => t.pc == 0x1002 && t.status == .running) = true := by decide
/-- T11, T12. -/
theorem test_sneImm : (afterWord 0x4311 (withV [(3, 0x10)]) (fun t => t.pc == 0x204) &&
    afterWord 0x4311 (withV [(3, 0x11)]) (fun t => t.pc == 0x202)) = true := by decide
/-- T13, T14, T17. -/
theorem test_seReg : (afterWord 0x5120 (withV [(1, 7), (2, 7)]) (fun t => t.pc == 0x204) &&
    afterWord 0x5120 (withV [(1, 7), (2, 8)]) (fun t => t.pc == 0x202) &&
    afterWord 0x5330 (withV [(3, 9)]) (fun t => t.pc == 0x204)) = true := by decide
/-- T15, T16, T18. -/
theorem test_sneReg : (afterWord 0x9120 (withV [(1, 7), (2, 8)]) (fun t => t.pc == 0x204) &&
    afterWord 0x9120 (withV [(1, 7), (2, 7)]) (fun t => t.pc == 0x202) &&
    afterWord 0x9330 (withV [(3, 9)]) (fun t => t.pc == 0x202)) = true := by decide
/-- T19, T20. -/
theorem test_jpV0 : (afterWord 0xB300 (withV [(0, 4)]) (fun t => t.pc == 0x304) &&
    afterWord 0xBFFF (withV [(0, 0xFF)]) (fun t => t.pc == 0x10FE)) = true := by decide
/-- T21. -/
theorem test_jpV0_absent : afterWord 0xB300 (State.resetWith { Config.params with jpV0Implemented := false })
    (faultedWith .illegalOpcode 0xB300 0x200) = true := by decide

/-! ## Arithmetic -/

/-- T30, T31. -/
theorem test_ldImm : (afterWord 0x60FF State.reset (fun t => t.getV 0 == 0xFF) &&
    afterWord 0x6F07 State.reset (fun t => t.getV 0xF == 7)) = true := by decide
/-- T32. -/
theorem test_addImm_no_flag : afterWord 0x7002 (withV [(0, 0xFF)]) (fun t => t.getV 0 == 1 && t.getV 0xF == 0) = true := by
  decide
/-- T33. -/
theorem test_addImm_to_vf : afterWord 0x7FFF (withV [(0xF, 1)]) (fun t => t.getV 0xF == 0) = true := by decide
/-- T34. -/
theorem test_ldReg : afterWord 0x8120 (withV [(2, 0x5A)]) (fun t => t.getV 1 == 0x5A && t.getV 2 == 0x5A) = true := by decide
/-- T35. -/
theorem test_orReg : afterWord 0x8121 (withV [(1, 0xF0), (2, 0x0F), (0xF, 1)])
    (fun t => t.getV 1 == 0xFF && t.getV 0xF == 1) = true := by decide
/-- T36. -/
theorem test_andReg : afterWord 0x8122 (withV [(1, 0xF3), (2, 0x3F)]) (fun t => t.getV 1 == 0x33) = true := by decide
/-- T37, T38. -/
theorem test_xorReg : (afterWord 0x8123 (withV [(1, 0xFF), (2, 0x0F)]) (fun t => t.getV 1 == 0xF0) &&
    afterWord 0x8113 (withV [(1, 0x77)]) (fun t => t.getV 1 == 0)) = true := by decide
/-- T39 to T42. -/
theorem test_addReg : (afterWord 0x8014 (withV [(0, 0xFF), (1, 1)]) (fun t => t.getV 0 == 0 && t.getV 0xF == 1) &&
    afterWord 0x8014 (withV [(0, 0xFF), (1, 0xFF)]) (fun t => t.getV 0 == 0xFE && t.getV 0xF == 1) &&
    afterWord 0x8014 (withV [(0, 0x80), (1, 0x7F)]) (fun t => t.getV 0 == 0xFF && t.getV 0xF == 0) &&
    afterWord 0x8114 (withV [(1, 0x90)]) (fun t => t.getV 1 == 0x20 && t.getV 0xF == 1)) = true := by decide
/-- T43 to T45. -/
theorem test_addReg_vf : (afterWord 0x8F14 (withV [(0xF, 0xFF), (1, 2)]) (fun t => t.getV 0xF == 1) &&
    afterWord 0x8F14 (withV [(0xF, 1), (1, 2)]) (fun t => t.getV 0xF == 0) &&
    afterWord 0x81F4 (withV [(1, 0xFF), (0xF, 1)]) (fun t => t.getV 1 == 0 && t.getV 0xF == 1)) = true := by decide
/-- T46 to T48. -/
theorem test_subReg : (afterWord 0x8015 (withV [(0, 1), (1, 2)]) (fun t => t.getV 0 == 0xFF && t.getV 0xF == 0) &&
    afterWord 0x8015 State.reset (fun t => t.getV 0 == 0 && t.getV 0xF == 1) &&
    afterWord 0x8115 (withV [(1, 0x90)]) (fun t => t.getV 1 == 0 && t.getV 0xF == 1)) = true := by decide
/-- T49. -/
theorem test_subReg_vf : afterWord 0x8FF5 (withV [(0xF, 7)]) (fun t => t.getV 0xF == 1) = true := by decide
/-- T50 to T52. -/
theorem test_subnReg : (afterWord 0x8127 (withV [(1, 0x0A), (2, 0x0C)]) (fun t => t.getV 1 == 2 && t.getV 0xF == 1) &&
    afterWord 0x8127 (withV [(1, 5), (2, 3)]) (fun t => t.getV 1 == 0xFE && t.getV 0xF == 0) &&
    afterWord 0x8127 (withV [(1, 9), (2, 9)]) (fun t => t.getV 1 == 0 && t.getV 0xF == 1)) = true := by decide
/-- T53 to T55. -/
theorem test_shr : (afterWord 0x8306 (withV [(3, 5)]) (fun t => t.getV 3 == 2 && t.getV 0xF == 1) &&
    afterWord 0x8306 State.reset (fun t => t.getV 3 == 0 && t.getV 0xF == 0) &&
    afterWord 0x8376 (withV [(3, 0xFF)]) (fun t => t.getV 3 == 0x7F && t.getV 0xF == 1)) = true := by decide
/-- T56. -/
theorem test_shr_vf : afterWord 0x8F06 (withV [(0xF, 2)]) (fun t => t.getV 0xF == 0) = true := by decide
/-- T57, T58. -/
theorem test_shl : (afterWord 0x800E (withV [(0, 0x80)]) (fun t => t.getV 0 == 0 && t.getV 0xF == 1) &&
    afterWord 0x800E (withV [(0, 0x7F)]) (fun t => t.getV 0 == 0xFE && t.getV 0xF == 0)) = true := by decide
/-- T59. -/
theorem test_shl_vf : afterWord 0x8F0E (withV [(0xF, 0x81)]) (fun t => t.getV 0xF == 1) = true := by decide

/-! ## Addressing -/

/-- T60. -/
theorem test_ldI : afterWord 0xA300 (State.reset.setIdx 0xFFFF) (fun t => t.idx == 0x300) = true := by decide
/-- T62; and the mask of T61 on whatever byte is drawn first. -/
theorem test_rnd : (∃ t, exec (.rnd 1 0x00) State.reset = .next t ∧ t.getV 1 = 0) ∧
    (∃ t, exec (.rnd 1 0x0F) State.reset = .next t ∧ t.getV 1 = Config.rnd 0 &&& 0x0F) :=
  ⟨⟨_, rfl, show Config.rnd 0 &&& 0 = 0 by simp⟩, ⟨_, rfl, rfl⟩⟩
/-- T64 to T66. -/
theorem test_ldF : (afterWord 0xF029 (withV [(0, 7)]) (fun t => t.idx == 0x23) &&
    afterWord 0xF029 (withV [(0, 0x1A)]) (fun t => t.idx == 0x32) &&
    afterWord 0xF029 (withV [(0, 0xF)]) (fun t => t.idx == 0x4B)) = true := by decide

/-! ## Display -/

/-- T70, T71: column 0 at x = 63, column 1 wraps to x = 0; a lit pixel turned off is a collision. -/
theorem test_drw_wraps :
    (afterWord 0xD121 ((bytesAt 0x300 [0xC0] (withV [(1, 63), (2, 0)])).setIdx 0x300)
      (fun t => t.disp == (Display.clear.set 0 ((1 : BitVec 64) <<< 63 ||| 1)) && t.getV 0xF == 0) &&
    afterWord 0xD121 { (bytesAt 0x300 [0xC0] (withV [(1, 63), (2, 0)])).setIdx 0x300 with disp := State.reset.disp.set 0 1 }
      (fun t => t.disp == (Display.clear.set 0 ((1 : BitVec 64) <<< 63)) && t.getV 0xF == 1)) = true := by decide
/-- T74: nothing drawn, info the lowest address out of bounds. -/
theorem test_drw_out_of_bounds : afterWord 0xD122 ((bytesAt 0xFFF [0xFF] State.reset).setIdx 0xFFF)
    (fun t => faultedWith .memOob 0x1000 0x200 t && t.disp == Display.clear) = true := by decide

/-! ## Input -/

/-- T80, T81, T84. -/
theorem test_skp : (afterWord 0xE49E ((withV [(4, 3)]).setKeyState 3 true) (fun t => t.pc == 0x204) &&
    afterWord 0xE49E (withV [(4, 3)]) (fun t => t.pc == 0x202) &&
    afterWord 0xE09E ((withV [(0, 15)]).setKeyState 15 true) (fun t => t.pc == 0x204)) = true := by decide
/-- T85. -/
theorem test_skp_range : afterWord 0xE09E (withV [(0, 16)]) (faultedWith .keyIndexRange 0x10 0x200) = true := by decide
/-- T82, T83. -/
theorem test_sknp : (afterWord 0xE4A1 (withV [(4, 3)]) (fun t => t.pc == 0x204) &&
    afterWord 0xE4A1 ((withV [(4, 3)]).setKeyState 3 true) (fun t => t.pc == 0x202)) = true := by decide
/-- T86. -/
theorem test_sknp_range : afterWord 0xE0A1 (withV [(0, 0xFF)]) (faultedWith .keyIndexRange 0xFF 0x200) = true := by decide
/-- T87. -/
theorem test_ldKey_waits : afterWord 0xF50A (withV [(5, 0x11)]) (fun t => t.pc == 0x200 && t.getV 5 == 0x11) = true := by decide
/-- T88, T89. -/
theorem test_ldKey_takes : (afterWord 0xF50A ((State.reset.setKeyState 9 true).setKeyState 3 true)
      (fun t => t.pc == 0x202 && t.getV 5 == 3) &&
    afterWord 0xF50A ((withV [(5, 0xEE)]).setKeyState 0 true) (fun t => t.pc == 0x202 && t.getV 5 == 0)) = true := by decide

/-! ## Timers -/

/-- T90. -/
theorem test_ldFromDt : afterWord 0xF107 (State.reset.setDt 0x2A) (fun t => t.getV 1 == 0x2A) = true := by decide
/-- T91. -/
theorem test_ldDt : afterWord 0xF015 (withV [(0, 3)]) (fun t => t.dt == 3 && t.st == 0) = true := by decide
/-- T92. -/
theorem test_ldSt : afterWord 0xF018 (withV [(0, 2)]) (fun t => t.st == 2 && t.dt == 0) = true := by decide

/-! ## Index, BCD, bulk -/

/-- T100 to T102. -/
theorem test_addI : (afterWord 0xF21E ((withV [(2, 0x10)]).setIdx 0x300) (fun t => t.idx == 0x310 && t.getV 0xF == 0) &&
    afterWord 0xF01E ((withV [(0, 1)]).setIdx 0xFFF) (fun t => t.idx == 0x1000 && t.status == .running) &&
    afterWord 0xF01E ((withV [(0, 1)]).setIdx 0xFFFF) (fun t => t.idx == 0)) = true := by decide
/-- E6, T104. -/
theorem test_ldB : (afterWord 0xF033 ((withV [(0, 0xCD)]).setIdx 0x300)
      (fun t => t.byteAt 0x300 == 2 && t.byteAt 0x301 == 0 && t.byteAt 0x302 == 5 && t.idx == 0x300) &&
    afterWord 0xF033 ((withV [(0, 255)]).setIdx 0xFFD)
      (fun t => t.byteAt 0xFFD == 2 && t.byteAt 0xFFE == 5 && t.byteAt 0xFFF == 5)) = true := by decide
/-- T105. -/
theorem test_ldB_out_of_bounds : afterWord 0xF033 ((withV [(0, 255)]).setIdx 0xFFE)
    (fun t => faultedWith .memOob 0x1000 0x200 t && t.byteAt 0xFFE == 0 && t.byteAt 0xFFF == 0) = true := by decide
/-- E8, T108. -/
theorem test_storeRegs : (afterWord 0xF255 ((withV [(0, 0x11), (1, 0x22), (2, 0x33), (3, 0x44)]).setIdx 0x400)
      (fun t => t.byteAt 0x400 == 0x11 && t.byteAt 0x402 == 0x33 && t.byteAt 0x403 == 0 && t.idx == 0x400) &&
    afterWord 0xF155 ((withV [(0, 1), (1, 2), (2, 3)]).setIdx 0xFFE)
      (fun t => t.byteAt 0xFFE == 1 && t.byteAt 0xFFF == 2)) = true := by decide
/-- T109. -/
theorem test_storeRegs_out_of_bounds : afterWord 0xF255 ((withV [(0, 1), (1, 2), (2, 3)]).setIdx 0xFFE)
    (fun t => faultedWith .memOob 0x1000 0x200 t && t.byteAt 0xFFE == 0 && t.byteAt 0xFFF == 0) = true := by decide
/-- E8, T111 (with the default FONT). -/
theorem test_loadRegs : (afterWord 0xF265 ((bytesAt 0x300 [2, 0, 5, 9] (withV [(3, 0x44)])).setIdx 0x300)
      (fun t => t.getV 0 == 2 && t.getV 1 == 0 && t.getV 2 == 5 && t.getV 3 == 0x44) &&
    afterWord 0xFF65 State.reset (fun t => t.v.toList == [0xF0, 0x90, 0x90, 0x90, 0xF0, 0x20, 0x60, 0x20, 0x20, 0x70,
      0xF0, 0x10, 0xF0, 0x80, 0xF0, 0xF0])) = true := by decide
/-- T110. -/
theorem test_loadRegs_out_of_bounds : afterWord 0xF065 (State.reset.setIdx 0x1000)
    (fun t => faultedWith .memOob 0x1000 0x200 t && t.getV 0 == 0) = true := by decide

/-! ## Fetch, faults, commands -/

/-- T120. -/
theorem test_fetch_at_top : goesOn (step (State.reset.setPc 0xFFF)) (faultedWith .memOob 0x1000 0xFFF) = true := by decide
/-- T122: an odd pc, big-endian. -/
theorem test_fetch_odd : goesOn (step ((bytesAt 0x200 [0x12, 0x60, 0x2A] State.reset).setPc 0x201))
    (fun t => t.getV 0 == 0x2A && t.pc == 0x203) = true := by decide
/-- T124, P8 (e). -/
theorem test_illegal_word : afterWord 0xFFFF State.reset (faultedWith .illegalOpcode 0xFFFF 0x200) = true := by decide
/-- T125. -/
theorem test_step_in_faulted :
    goesOn (step (State.reset.enterFault (memOobAt 0x1000))) (fun t => t == State.reset.enterFault (memOobAt 0x1000)) = true := by
  decide
/-- T93, T95, T96. -/
theorem test_tick : (afterCommand .tick ((State.reset.setDt 3).setSt 2)
      (fun t => t.dt == 2 && t.st == 1 && t.outside.reply == .tone true) &&
    afterCommand .tick (State.reset.setDt 1) (fun t => t.dt == 0 && t.st == 0 && t.outside.reply == .tone false) &&
    afterCommand .tick State.reset (fun t => t.dt == 0 && t.st == 0 && t.outside.reply == .tone false)) = true := by decide
/-- T126. -/
theorem test_tick_in_faulted : afterCommand .tick ((State.reset.setSt 2).enterFault (memOobAt 0x1000))
    (fun t => t.st == 1 && t.outside.reply == .tone true && t.status == .faulted) = true := by decide
/-- T98. -/
theorem test_setKey : afterCommand (.setKey 7 true) State.reset (fun t => t.getKey 7 && !t.getKey 6) = true := by decide
/-- T127. -/
theorem test_reset_in_faulted : afterCommand .reset ((withV [(0, 1)]).enterFault (memOobAt 0x1000))
    (fun t => t == State.reset) = true := by decide
/-- LOAD of program P8 (b)'s image (R263). -/
theorem test_load : afterCommand (.load [0x22, 0x00]) State.reset
    (fun t => t.byteAt 0x200 == 0x22 && t.byteAt 0x201 == 0 && t.outside.reply == .loaded) = true := by decide

/-! ## Witnesses: concrete inputs that meet the hypotheses of each statement together, one for each clause -/

theorem witness_DecodeOfEncode : (Instr.jpV0 0xFFF).wellFormed true = true ∧ (Instr.drw 0xF 0xF 0xF).wellFormed false = true := by
  decide
theorem witness_EncodeOfDecode : decodeWord true 0x83F6 = .ok (.shr 3) ∧ decodeWord true 0xDFFF = .ok (.drw 0xF 0xF 0xF) :=
  ⟨rfl, rfl⟩
theorem witness_DecodeFollowsMasksAndMatches : decodeWord true 0x5120 = .ok (.seReg 1 2) ∧
    (Instr.seReg 0 0) ∈ opcodeRows ∧ (0x5120 : Word) &&& (Instr.seReg 0 0).rowMask = (Instr.seReg 0 0).rowMatch ∧
    (∀ i, decodeWord true 0x5121 ≠ .ok i) := by
  refine ⟨rfl, by decide, by decide, fun i h => ?_⟩
  have e : decodeWord true 0x5121 = .error (.illegalOpcode 0x5121) := rfl
  rw [e] at h
  cases h
/-- One illegal word of each class of R96. -/
theorem witness_IllegalWordsByClass :
    (∃ e, decodeWord true 0x0FFF = .error e) ∧ (∃ e, decodeWord true 0x5001 = .error e) ∧
    (∃ e, decodeWord true 0x8FFF = .error e) ∧ (∃ e, decodeWord true 0x900F = .error e) ∧
    (∃ e, decodeWord false 0xB000 = .error e) ∧ (∃ e, decodeWord true 0xE0A0 = .error e) ∧
    (∃ e, decodeWord true 0xFFFF = .error e) :=
  ⟨⟨_, rfl⟩, ⟨_, rfl⟩, ⟨_, rfl⟩, ⟨_, rfl⟩, ⟨_, rfl⟩, ⟨_, rfl⟩, ⟨_, rfl⟩⟩

/-- A state with a word at its pc. -/
def placed (a : Nat) (w : Word) (s : State) : State :=
  (bytesAt a [highByte w, lowByte w] s).setPc (BitVec.ofNat 16 a)

theorem witness_StepRunsTheDecodedInstruction_nothing_pending :
    ∃ (s : State) (i : Instr), s.status = .running ∧ s.pc.toNat = 0xFFE ∧
      decode s.params.jpV0Implemented [s.byteAt s.pc.toNat, s.byteAt (s.pc.toNat + 1)] = .ok (i, []) ∧
      i.wellFormed s.params.jpV0Implemented = true ∧ s.outside.pending = [] :=
  ⟨placed 0xFFE 0x60FF State.reset, .ldImm 0 0xFF, rfl, rfl, rfl, rfl, rfl⟩
theorem witness_StepRunsTheDecodedInstruction_step_pending :
    ∃ (s : State) (i : Instr) (rest : List Command), s.status = .running ∧ s.pc.toNat = 0 ∧
      decode s.params.jpV0Implemented [s.byteAt s.pc.toNat, s.byteAt (s.pc.toNat + 1)] = .ok (i, []) ∧
      i.wellFormed s.params.jpV0Implemented = true ∧ s.outside.pending = .step :: rest :=
  ⟨(placed 0 0xB300 State.reset).setPending [.step, .tick], .jpV0 0x300, [.tick], rfl, rfl, rfl, rfl, rfl⟩
theorem witness_StepCarriesOutTheOldestCommand :
    (State.reset.setPending [.reset, .tick]).outside.pending = .reset :: [.tick] ∧
    Command.tick ≠ .step ∧ (∃ t, runCommand .tick State.reset = .next t) ∧
    ∃ t, runCommand .reset State.reset = .next t := ⟨rfl, nofun, ⟨_, rfl⟩, ⟨_, rfl⟩⟩
theorem witness_PlacedWordRunsNext : State.reset.memWf = true ∧
    (placed 0x200 0x60FF (State.reset.setPc 0xFFFF)).memWf = true ∧
    decodeWord State.reset.params.jpV0Implemented 0xFF65 = .ok (.loadRegs 0xF) := ⟨rfl, rfl, rfl⟩

/-- Both sides of each bound, and memory in canonical form. -/
theorem witness_MemReadAndMemWrite : State.reset.mem.wf Config.font = true ∧
    (memRead Config.font State.reset.mem 0xFFF).isOk = true ∧ (memRead Config.font State.reset.mem 0x1000).isOk = false ∧
    (memWrite Config.font State.reset.mem 0xFFF 7).isOk = true ∧ (memWrite Config.font State.reset.mem 0x1000 7).isOk = false := by decide
theorem witness_MemReadAndMemWrite_fault : ∃ (i : Instr) (s t : State), s.status = .running ∧ exec i s = .next t ∧
    t.status = .faulted := ⟨.storeRegs 1, State.reset.setIdx 0xFFF, _, rfl, rfl, rfl⟩
/-- The highest address that fetches, the two that fault by each byte, and a NOP at the highest one. -/
theorem witness_FetchIsBigEndianAndBounded :
    (fetch16 Config.font State.reset.mem 0xFFE).isOk = true ∧ (fetch16 Config.font State.reset.mem 0xFFF).isOk = false ∧
    (fetch16 Config.font State.reset.mem 0x1000).isOk = false ∧
    (State.reset.setPc 0xFFE).status = .running ∧ (State.reset.setPc 0xFFE).outside.pending = [] ∧
    (State.reset.setPc 0xFFE).pc.toNat ≤ 0xFFE ∧ fetchedWord (State.reset.setPc 0xFFE) = 0 := by decide
theorem witness_StoreIsSeenByTheNextFetch : ∃ (x : Nibble) (s : State) (k : Nat), s.memWf = true ∧
    s.idx.toNat + x.toNat = 0xFFF ∧ k + 1 = x.toNat :=
  ⟨0xF, (withV [(0xF, 0x77)]).setIdx 0xFF0, 14, by decide⟩

theorem witness_NopOnlyAdvances : opField 0x0001 = 0x0 ∧ (0x0001 : Word) ≠ 0x0000 ∧ (0x0001 : Word) ≠ 0x00E0 ∧
    (0x0001 : Word) ≠ 0x00EE := by decide
theorem witness_RetPopsOrUnderflows : State.reset.sp.val = 0 ∧ 0 < (withStack 1 0x20A State.reset).sp.val ∧
    0 < (withStack 16 0x20A State.reset).sp.val := by decide
/-- A jump to itself at the highest address it can be fetched from. -/
theorem witness_JpGoesToItsTarget : ∃ (nnn : Addr12) (s : State), s.status = .running ∧ s.outside.pending = [] ∧
    s.pc.toNat ≤ 0xFFE ∧ fetchedWord s = packNNN 0x1 nnn ∧ nnn.toNat = s.pc.toNat :=
  ⟨0xFFE, placed 0xFFE 0x1FFE State.reset, by decide⟩
theorem witness_CallPushesOrOverflows : (withStack 16 0x202 State.reset).sp.val = 16 ∧
    (withStack 15 0x202 State.reset).sp.val < 16 ∧ State.reset.sp.val < 16 := by decide
theorem witness_SkipsOnRegister : (0x1 : Nibble) ≠ 0x0 ∧ (0xF : Nibble) ≠ 0x0 := by decide
theorem witness_JpV0AddsV0 : ∃ (nnn : Addr12) (s : State), s.params.jpV0Implemented = false ∧
    s.status = .running ∧ s.pc.toNat ≤ 0xFFE ∧ fetchedWord s = packNNN 0xB nnn :=
  ⟨0xFFF, placed 0xFFE 0xBFFF (State.resetWith { Config.params with jpV0Implemented := false }), by decide⟩
theorem witness_RetUndoesCall : ∃ (nnn : Addr12) (s t u : State), s.sp.val = 15 ∧ exec (.call nnn) s = .next t ∧
    u.sp = t.sp ∧ u.stack = t.stack := ⟨0x300, withStack 15 0x202 State.reset, _, _, rfl, rfl, rfl, rfl⟩

/-- X other than VF, for ADD, SUB, SUBN, SHR and SHL. -/
theorem witness_AddRegistersWithCarry : (0xE : Nibble) ≠ 0xF := by decide
theorem witness_SubtractBothWays : (0x0 : Nibble) ≠ 0xF := by decide
theorem witness_ShiftsByOneBit : (0x7 : Nibble) ≠ 0xF := by decide
theorem witness_FlagWritersLeaveABit : ∃ (i : Instr) (s t : State), i.writesFlag = true ∧ exec i s = .next t ∧
    t.status = .running := ⟨.addReg 0xF 0xF, withV [(0xF, 0xFF)], _, rfl, rfl, rfl⟩
theorem witness_RndMasksAFreeByte : (0xFE : Byte).getLsbD 0 = false := by decide

/-- No rows wherever I points; the last row at 0xFFF; one row too many; I itself out of bounds. -/
theorem witness_DrawFlipsTheCoveredPixels_bounds :
    (0x0 : Nibble).toNat = 0 ∧ (State.reset.setIdx 0xFF1).idx.toNat + (0xF : Nibble).toNat ≤ 0x1000 ∧
    ((0x2 : Nibble).toNat ≠ 0 ∧ 0x1000 < (State.reset.setIdx 0xFFF).idx.toNat + (0x2 : Nibble).toNat) ∧
    ((0x1 : Nibble).toNat ≠ 0 ∧ 0x1000 < (State.reset.setIdx 0xFFFF).idx.toNat + (0x1 : Nibble).toNat) := by decide
/-- A state with a one-row sprite of two pixels at (63, 0), the pixel (0, 0) on. -/
def aboutToDraw : State :=
  { (bytesAt 0x300 [0xC0] (withV [(1, 63)])).setIdx 0x300 with disp := State.reset.disp.set 0 1 }
/-- A covered pixel, one that is not, and a pixel on before and off after (T71). -/
theorem witness_DrawFlipsTheCoveredPixels_pixels :
    SpriteCovers (spriteRows aboutToDraw 1) 63 0 0 0 ∧ ¬ SpriteCovers (spriteRows aboutToDraw 1) 63 0 5 5 ∧
    Display.pixel aboutToDraw.disp 0 0 = true ∧
    goesOn (exec (.drw 1 2 1) aboutToDraw) (fun t => !Display.pixel t.disp 0 0) = true := by
  refine ⟨⟨0, 1, by decide, by decide, by decide, by decide, by decide⟩, ?_, by decide, by decide⟩
  rintro ⟨r, c, h, _, _, _, hy⟩
  have : r < 1 := h
  omega
/-- No pixel on before, so none is turned off. -/
theorem witness_DrawFlipsTheCoveredPixels_no_collision : ∀ px py, px < 64 → py < 32 →
    Display.pixel State.reset.disp px py = true → Display.pixel Display.clear px py = true := by
  intro px py _ _ h
  rw [show State.reset.disp = Display.clear from rfl, Display.pixel_clear] at h
  cases h
theorem witness_DrawTwiceRestoresAndWraps :
    (0x1 : Nibble) ≠ 0xF ∧ (0x2 : Nibble) ≠ 0xF ∧ aboutToDraw.idx.toNat + (0x1 : Nibble).toNat ≤ 0x1000 ∧
    SpriteCovers (spriteRows aboutToDraw 1) 63 0 63 0 ∧ Display.pixel aboutToDraw.disp 63 0 = false := by
  refine ⟨by decide, by decide, by decide, ⟨0, 0, by decide, by decide, by decide, by decide, by decide⟩, by decide⟩
/-- x = 63, a clear display, a row whose columns 0 and 1 are set. -/
theorem witness_DrawTwiceRestoresAndWraps_wrap : ∃ s : State, 1 ≤ (0x1 : Nibble).toNat ∧
    s.idx.toNat + (0x1 : Nibble).toNat ≤ 0x1000 ∧ (s.getV 1).toNat % 64 = 63 ∧
    (∀ px py, Display.pixel s.disp px py = false) ∧ (s.byteAt s.idx.toNat).getLsbD (7 - 1) = true :=
  ⟨(bytesAt 0x300 [0xC0] (withV [(1, 63)])).setIdx 0x300, by decide, by decide, by decide,
    fun px py => Display.pixel_clear px py, by decide⟩

theorem witness_KeySkips : ((withV [(4, 15)]).getV 4).toNat = (0xF : Nibble).toNat ∧ 15 < ((withV [(4, 16)]).getV 4).toNat := by
  decide
theorem witness_KeyWaitTakesTheLowestKey :
    ((State.reset.setKeyState 9 true).setKeyState 3 true).getKey 3 = true ∧
    (∀ j : Nibble, j.toNat < (3 : Nibble).toNat → ((State.reset.setKeyState 9 true).setKeyState 3 true).getKey j = false) ∧
    (∀ k, State.reset.getKey k = false) := by decide
theorem witness_BcdStoresThreeDigits : State.reset.memWf = true ∧ (State.reset.setIdx 0xFFD).idx.toNat + 2 ≤ 0xFFF ∧
    0xFFF < (State.reset.setIdx 0xFFE).idx.toNat + 2 := by decide
theorem witness_BulkStoreWritesTheRange : State.reset.memWf = true ∧
    (State.reset.setIdx 0xFF0).idx.toNat + (0xF : Nibble).toNat ≤ 0xFFF ∧
    0xFFF < (State.reset.setIdx 0xFF1).idx.toNat + (0xF : Nibble).toNat := by decide
theorem witness_BulkLoadReadsTheRange :
    (State.reset.setIdx 0xFFF).idx.toNat + (0x0 : Nibble).toNat ≤ 0xFFF ∧
    0xFFF < (State.reset.setIdx 0x1000).idx.toNat + (0x0 : Nibble).toNat := by decide
/-- The registers loaded into hold something else by then. -/
theorem witness_BulkLoadUndoesBulkStore : ∃ (x : Nibble) (s t u : State), s.memWf = true ∧
    s.idx.toNat + x.toNat ≤ 0xFFF ∧ exec (.storeRegs x) s = .next t ∧ (∀ a, u.byteAt a = t.byteAt a) ∧ u.idx = s.idx ∧
    u.getV 0 ≠ s.getV 0 :=
  ⟨2, (withV [(0, 0x11), (1, 0x22), (2, 0x33)]).setIdx 0x400, _,
    (bytesAt 0x400 [0x11, 0x22, 0x33] State.reset).setIdx 0x400, by decide, by decide, rfl, fun _ => rfl, by decide, by decide⟩

theorem witness_OnlyDestinationRegistersChange : ∃ t, exec (.loadRegs 0xF) State.reset = .next t := ⟨_, rfl⟩
theorem witness_OnlyTheNamedPartsChange : (∃ t, exec .ret State.reset = .next t) ∧ ∃ t, exec .cls State.reset = .next t :=
  ⟨⟨_, rfl⟩, ⟨_, rfl⟩⟩
theorem witness_HostRecordDoesNotInterfere : (∀ x kk, Instr.cls ≠ .rnd x kk) ∧ ∃ t, exec .cls State.reset = .next t :=
  ⟨fun _ _ => nofun, _, rfl⟩
theorem inv_reset : Inv State.reset :=
  ⟨by decide, ⟨by decide, fun k h => by simp [State.reset, State.resetWith]⟩, show State.reset.info = 0 by decide⟩
theorem witness_EveryStepKeepsTheInvariant : Inv State.reset ∧ ∃ t, step State.reset = .next t := ⟨inv_reset, _, rfl⟩
theorem witness_EveryStepKeepsMemoryCanonical : State.reset.memWf = true ∧ ∃ t, step State.reset = .next t := ⟨rfl, _, rfl⟩

/-- A state for every cause of the table, and one with no fault. -/
theorem witness_FaultsAreExactlyTheTable :
    stepFault State.reset = none ∧
    stepFault (State.reset.setPc 0x1000) = some { cause := .memOob, info := 0x1000 } ∧
    stepFault (State.reset.setPc 0xFFF) = some { cause := .memOob, info := 0x1000 } ∧
    stepFault (placed 0x200 0xFFFF State.reset) = some { cause := .illegalOpcode, info := 0xFFFF } ∧
    stepFault (placed 0x200 0x2300 (withStack 16 0x202 State.reset)) = some { cause := .stackOverflow, info := 16 } ∧
    stepFault (placed 0x200 0x00EE State.reset) = some { cause := .stackUnderflow, info := 0 } ∧
    stepFault (placed 0x200 0xE09E (withV [(0, 16)])) = some { cause := .keyIndexRange, info := 0x10 } := by decide
/-- A data access out of bounds for each of the four instructions that have one, at its lowest address. -/
theorem witness_FaultsAreExactlyTheTable_data_access :
    stepFault (placed 0x200 0xD012 (State.reset.setIdx 0xFFF)) = some { cause := .memOob, info := 0x1000 } ∧
    stepFault (placed 0x200 0xF033 (State.reset.setIdx 0xFFE)) = some { cause := .memOob, info := 0x1000 } ∧
    stepFault (placed 0x200 0xFF55 (State.reset.setIdx 0xFFFF)) = some { cause := .memOob, info := 0xFFFF } ∧
    stepFault (placed 0x200 0xF065 (State.reset.setIdx 0x1000)) = some { cause := .memOob, info := 0x1000 } ∧
    stepFault (placed 0x200 0xF065 (State.reset.setIdx 0xFFF)) = none := by decide
theorem witness_FaultsAreExactlyTheTable_other_command : Command.tick ≠ .step ∧ State.reset.status = .running ∧
    ∃ t, runCommand .tick State.reset = .next t := ⟨nofun, rfl, _, rfl⟩
/-- A fault with a further command pending. -/
theorem witness_FaultsAreExactlyTheTable_more_pending : ∃ s : State, s.status = .running ∧ s.outside.pending = [.tick] ∧
    stepFault s = some { cause := .stackUnderflow, info := 0 } :=
  ⟨(placed 0x200 0x00EE State.reset).setPending [.tick], by decide⟩
theorem witness_FaultsArePrecise : ∃ s t : State, s.status = .running ∧ stepCommand s = .next t ∧ t.status = .faulted :=
  ⟨State.reset.setPc 0xFFF, _, rfl, rfl, rfl⟩
/-- A faulted state. -/
def aFault : State := State.reset.enterFault { cause := .stackUnderflow, info := 0 }
theorem witness_FaultIsKeptUntilReset : aFault.status = .faulted ∧ (∃ t, step aFault = .next t) ∧
    (∀ rest, aFault.outside.pending ≠ .reset :: rest) ∧ (aFault.setPending [.reset]).status = .faulted ∧
    (∃ t, step (aFault.setPending [.reset]) = .next t) ∧ (aFault.setPending [.reset]).outside.pending = .reset :: [] :=
  ⟨rfl, ⟨_, rfl⟩, fun _ => nofun, rfl, ⟨_, rfl⟩, rfl⟩
theorem witness_CommandsInFaulted : aFault.status = .faulted ∧ Command.tick ≠ .step ∧ Command.tick ≠ .reset ∧
    ∃ t, runCommand .tick State.reset = .next t := ⟨rfl, nofun, nofun, _, rfl⟩

/-- The longest image, and one byte more. -/
theorem witness_LoadWritesTheImage : State.reset.memWf = true ∧ (List.replicate 3584 (1 : Byte)).length ≤ 3584 ∧
    3584 < (List.replicate 3585 (1 : Byte)).length := 
  ⟨rfl, by rw [List.length_replicate], by rw [List.length_replicate]; omega⟩
theorem witness_ReadoutIsRowMajor : (63 : Nat) < 64 ∧ (31 : Nat) < 32 := by decide
/-- From reset with no image n is 1792; at the end of memory n is 0. -/
theorem witness_RunningOffTheEndFaults :
    (State.reset.status = .running ∧ State.reset.outside.pending = [] ∧ State.reset.pc.toNat + 2 * 1792 = 0x1000 ∧
      ∀ a, State.reset.pc.toNat ≤ a → a < 0x1000 → State.reset.byteAt a = 0) ∧
    (State.reset.setPc 0x1000).pc.toNat + 2 * 0 = 0x1000 := by
  refine ⟨⟨rfl, rfl, rfl, fun a h _ => ?_⟩, rfl⟩
  have h' : 0x200 ≤ a := h
  exact (State.byteAt_resetWith Config.params a).trans (dif_neg (by omega))

/-- A machine with another font and no JP V0, and one with it that fetches `Bnnn`. -/
theorem witness_ParametersAreFixedArguments : (∃ t, step State.reset = .next t) ∧
    ((State.resetWith { font := Vector.replicate 80 0x3C, jpV0Implemented := false }).byteAt 79 = 0x3C) ∧
    (∃ (s : State) (i : Instr), s.status = .running ∧ s.pc.toNat ≤ 0xFFE ∧
      decodeWord s.params.jpV0Implemented (fetchedWord s) = .ok i) :=
  ⟨⟨_, rfl⟩, by decide, placed 0x200 0xB300 State.reset, .jpV0 0x300, by decide, by decide, rfl⟩

end Sys2Proof.Tests
end

section
/-! PROOF. The parameters of the machine (spec 00_scope R7): every step goes on and keeps them. -/

namespace Sys2Proof.Machine

/-- The step goes on, to a state whose parameters are `p`. -/
def NextHasParams (p : Params) (r : Result) : Prop := ∃ t, r = .next t ∧ t.params = p

theorem NextHasParams.intro {p : Params} {r : Result} {t : State} (hr : r = .next t) (ht : t.params = p) :
    NextHasParams p r := ⟨t, hr, ht⟩

theorem NextHasParams.params_eq {p : Params} {t : State} (h : NextHasParams p (.next t)) : t.params = p := by
  obtain ⟨_, e, ht⟩ := h
  cases e
  exact ht

theorem NextHasParams.of_eq {p : Params} {r r' : Result} (hr : r = r') (h : NextHasParams p r') : NextHasParams p r :=
  hr ▸ h

/-- A skip, taken or not (40_control_flow R120). -/
theorem skipIf_nextHasParams (b : Bool) (s : State) : NextHasParams s.params (skipIf b s) :=
  .intro (skipIf_eq b s) (s.setPc_params _)

/-- The two bulk stores (46_index_bcd_bulk R201, R202). -/
theorem storeAtIdx_nextHasParams (bs : List Byte) (s : State) : NextHasParams s.params (storeAtIdx bs s) := by
  rcases storeAtIdx_cases bs s with ⟨_, e⟩ | ⟨_, e⟩ <;> exact .intro e rfl

/-- Every instruction keeps the parameters, by its own meaning where that is one equation and by the cases of its meaning
where it branches. -/
theorem exec_nextHasParams (i : Instr) (s : State) : NextHasParams s.params (exec i s) := by
  cases i
  case seImm | sneImm | seReg | sneReg => exact skipIf_nextHasParams _ s
  case ldB | storeRegs => exact storeAtIdx_nextHasParams _ s
  case ret =>
    rcases execRet_cases s with ⟨_, e⟩ | ⟨_, e⟩ <;> exact .intro e rfl
  case call nnn =>
    rcases execCall_cases nnn s with ⟨_, e⟩ | ⟨_, e⟩ <;> exact .intro e rfl
  case drw x y n =>
    rcases execDrw_cases x y n s with ⟨_, e⟩ | ⟨_, e⟩ <;> exact .intro e rfl
  case skp x =>
    rcases execSkp_cases x s with ⟨_, _, e⟩ | ⟨_, e⟩
    · exact .of_eq e (skipIf_nextHasParams _ s)
    · exact .intro e rfl
  case sknp x =>
    rcases execSknp_cases x s with ⟨_, _, e⟩ | ⟨_, e⟩
    · exact .of_eq e (skipIf_nextHasParams _ s)
    · exact .intro e rfl
  case ldKey x =>
    rcases execLdKey_cases x s with ⟨_, _, e⟩ | ⟨_, e⟩ <;> exact .intro e rfl
  case loadRegs x =>
    rcases execLoadRegs_cases x s with ⟨_, e⟩ | ⟨_, e⟩
    · exact .intro e (by rw [State.advance_params, State.setVFrom_params])
    · exact .intro e rfl
  all_goals exact .intro rfl rfl

/-- A STEP that faults, does nothing or executes keeps the parameters (10_state R37). -/
theorem stepCommand_nextHasParams (s : State) : NextHasParams s.params (stepCommand s) := by
  rcases stepCommand_cases s with ⟨_, e⟩ | ⟨_, _, e⟩ | ⟨_, _, _, ⟨_, _, e⟩ | ⟨i, _, e⟩⟩
  · exact .intro e rfl
  · exact .intro e rfl
  · exact .intro e rfl
  · exact .of_eq e (exec_nextHasParams i s)

/-- LOAD keeps the parameters, whether the image fits or not (70_reset_and_hazards R263). -/
@[simp] theorem State.load_params (s : State) (image : List Byte) : (s.load image).params = s.params := by
  unfold State.load
  split <;> rfl

/-- Every command keeps the parameters; RESET reads them (R260). -/
theorem runCommand_nextHasParams (c : Command) (s : State) : NextHasParams s.params (runCommand c s) := by
  cases c with
  | step => exact stepCommand_nextHasParams s
  | load image => exact .intro rfl (State.load_params s image)
  | tick | setKey k pressed | reset | readout => exact .intro rfl rfl

theorem step_nextHasParams (s : State) : NextHasParams s.params (step s) := by
  cases h : s.outside.pending with
  | nil => exact .of_eq (step_of_pending_nil h) (stepCommand_nextHasParams s)
  | cons c rest => exact .of_eq (step_of_pending_cons h) (runCommand_nextHasParams c (s.setPending rest))

/-- A machine built with `p` holds `p`'s font at 0x000 to 0x04F after reset (10_state R34). -/
theorem byteAt_resetWith_of_lt_80 (p : Params) (a : Nat) (h : a < 80) : (State.resetWith p).byteAt a = p.font[a] :=
  (State.byteAt_resetWith p a).trans (dif_pos h)

/-- A STEP in RUNNING that can fetch a word and decode it is the meaning of the decoded instruction (R37, 40_control_flow
R130). -/
theorem stepCommand_of_decodes {s : State} {i : Instr} (hs : s.status = .running) (hpc : s.pc.toNat ≤ 0xFFE)
    (hd : decodeWord s.params.jpV0Implemented (fetchedWord s) = .ok i) : stepCommand s = exec i s := by
  rcases stepCommand_cases s with ⟨hs', _⟩ | ⟨_, hpc', _⟩ | ⟨_, _, _, ⟨_, hd', _⟩ | ⟨j, hd', e⟩⟩
  · cases hs.symm.trans hs'
  · omega
  · cases hd.symm.trans hd'
  · cases hd.symm.trans hd'
    exact e

/-- Settles O58: the parameters at reset by definition, the invariant by `step_nextHasParams`, the font by what an unlisted
address reads as, and the decoding by the STEP's own fetch. -/
theorem parametersAreFixedArguments : Obligations.ParametersAreFixedArguments := by
  refine ⟨fun _ => rfl, fun s t h => ?_, byteAt_resetWith_of_lt_80, fun _ _ => stepCommand_of_decodes⟩
  exact (h ▸ step_nextHasParams s).params_eq

end Sys2Proof.Machine
end

section
/-! PROOF. What an executed instruction can do, said once: it raises the fault of the table or completes with one of a few
kinds of update (spec 10_state, 60_exceptions R221, R226). -/

namespace Sys2Proof.Machine

/-- The state an instruction that does not fault leaves: one constructor per kind of update, under what the update says of
the instruction. The values it writes are left open, but for the pc: that is at most 0x10FE where the instruction could be
fetched (10_state R24, R38). -/
inductive Completes (s : State) : Instr → State → Prop
  /-- Only the pc moves: a fall-through, a skip, a jump, a key wait. -/
  | move {i : Instr} {w : Word} (target : s.pc.toNat ≤ 0xFFE → w.toNat ≤ 0x10FE) : Completes s i (s.setPc w)
  /-- One register is written. -/
  | register {i : Instr} {x : Nibble} {b : Byte} (parts : i.writtenParts = [.pc, .v]) (regs : i.writtenRegs = [x]) :
      Completes s i (s.setV x b).advance
  /-- A result and a flag are written. -/
  | flagged {i : Instr} {x : Nibble} {r f : Byte} (parts : i.writtenParts = [.pc, .v])
      (regs : i.writtenRegs = [x, flagReg]) : Completes s i (s.setResultAndFlag x r f).advance
  /-- I is written. -/
  | index {i : Instr} {a : Word} (parts : i.writtenParts = [.pc, .idx]) : Completes s i (s.setIdx a).advance
  /-- Bytes are stored, all of them inside memory. -/
  | store {i : Instr} {a : Nat} {bs : List Byte} (parts : i.writtenParts = [.pc, .mem])
      (fits : bs = [] ∨ a + bs.length ≤ 0x1000) : Completes s i (s.storeFrom a bs).advance
  | cls : Completes s .cls (s.setDisp Display.clear).advance
  | ret (h : 0 < s.sp.val) :
      Completes s .ret ((s.setStack ⟨s.sp.val - 1, by omega⟩ s.stack).setPc (s.stack[s.sp.val - 1]'(by omega)))
  | call {nnn : Addr12} (h : s.sp.val < 16) : Completes s (.call nnn)
      ((s.setStack ⟨s.sp.val + 1, by omega⟩ (s.stack.set s.sp.val (s.pc + 2) h)).setPc (zextAddr nnn))
  | rnd {x : Nibble} {kk b : Byte} : Completes s (.rnd x kk) (s.setV x b).drawn.advance
  | drw {x y n : Nibble} {d : Display} {f : Byte} : Completes s (.drw x y n) ((s.setDisp d).setV flagReg f).advance
  | ldDt {x : Nibble} {b : Byte} : Completes s (.ldDt x) (s.setDt b).advance
  | ldSt {x : Nibble} {b : Byte} : Completes s (.ldSt x) (s.setSt b).advance
  | loadRegs {x : Nibble} {bs : List Byte} (length : bs.length = x.toNat + 1) :
      Completes s (.loadRegs x) (s.setVFrom 0 bs).advance

/-- The answer `r` of the instruction `i` at `s`: its fault of the table, raised at `s`, or a completed instruction. -/
def FaultsOrCompletes (i : Instr) (s : State) (r : Result) : Prop :=
  (∃ trap, instrFault i s = some trap ∧ r = .next (s.enterFault trap)) ∨
  (instrFault i s = none ∧ ∃ t, r = .next t ∧ Completes s i t)

theorem FaultsOrCompletes.faults {i : Instr} {s : State} {r : Result} {trap : Trap} (hf : instrFault i s = some trap)
    (hr : r = .next (s.enterFault trap)) : FaultsOrCompletes i s r := .inl ⟨trap, hf, hr⟩

theorem FaultsOrCompletes.completes {i : Instr} {s t : State} {r : Result} (hf : instrFault i s = none) (hr : r = .next t)
    (hc : Completes s i t) : FaultsOrCompletes i s r := .inr ⟨hf, t, hr, hc⟩

theorem FaultsOrCompletes.of_eq {i : Instr} {s : State} {r r' : Result} (hr : r = r') (h : FaultsOrCompletes i s r') :
    FaultsOrCompletes i s r := hr ▸ h

theorem toNat_advanced_pc {w : Word} (h : w.toNat ≤ 0xFFE) : (w + 2).toNat = w.toNat + 2 := by
  rw [BitVec.toNat_add]
  simp
  omega

theorem toNat_skipped_pc {w : Word} (h : w.toNat ≤ 0xFFE) : (w + 4).toNat = w.toNat + 4 := by
  rw [BitVec.toNat_add]
  simp
  omega

theorem toNat_zextAddr_le (nnn : Addr12) : (zextAddr nnn).toNat ≤ 0xFFF := by
  rw [toNat_zextAddr]
  omega

/-- The largest pc a jump leaves, that of JP V0 (40_control_flow R130). -/
theorem toNat_jpV0_target_le (nnn : Addr12) (b : Byte) : (zextAddr nnn + zextByte b).toNat ≤ 0x10FE := by
  have hn := toNat_zextAddr_le nnn
  have hb := b.isLt
  rw [← toNat_zextByte] at hb
  bv_omega

/-- A fall-through moves only the pc. -/
theorem Completes.advance (i : Instr) (s : State) : Completes s i s.advance :=
  .move (w := s.pc + 2) fun h => by rw [toNat_advanced_pc h]; omega

/-- A skip, taken or not (40_control_flow R120). -/
theorem skipIf_faultsOrCompletes {i : Instr} {s : State} (b : Bool) (hf : instrFault i s = none) :
    FaultsOrCompletes i s (skipIf b s) := by
  refine .completes hf (skipIf_eq b s) (.move fun h => ?_)
  cases b
  · simp only [Bool.false_eq_true, if_false, toNat_advanced_pc h]
    omega
  · simp only [if_true, toNat_skipped_pc h]
    omega

theorem keyIndexTrap_eq (b : Byte) : keyIndexTrap b = { cause := .keyIndexRange, info := BitVec.ofNat 16 b.toNat } := by
  have h : zextByte b = BitVec.ofNat 16 b.toNat := BitVec.eq_of_toNat_eq (by rw [toNat_zextByte]; simp; omega)
  rw [keyIndexTrap, h]

/-- The two bulk stores, of `bs.length` bytes from I (46_index_bcd_bulk R201, R202). -/
theorem storeAtIdx_faultsOrCompletes {i : Instr} {s : State} {bs : List Byte} (hne : bs ≠ [])
    (hf : instrFault i s = if bs.length ≠ 0 ∧ 0xFFF < s.idx.toNat + (bs.length - 1) then
      some (memOobAt (max s.idx.toNat 0x1000)) else none)
    (parts : i.writtenParts = [.pc, .mem]) : FaultsOrCompletes i s (storeAtIdx bs s) := by
  have hlen := List.length_pos_iff.mpr hne
  rcases storeAtIdx_cases bs s with ⟨h, e⟩ | ⟨⟨_, h⟩, e⟩
  · have := h.resolve_left hne
    exact .completes (hf.trans (if_neg (by omega))) e (.store parts h)
  · exact .faults (hf.trans (if_pos (by omega))) e

/-- Every instruction raises its fault of the table or completes, by its own meaning where that is one equation and by the
cases of its meaning where it branches. -/
theorem exec_faultsOrCompletes (i : Instr) (s : State) : FaultsOrCompletes i s (exec i s) := by
  cases i
  case nop => exact .completes rfl rfl (.advance _ s)
  case jp nnn => exact .completes rfl rfl (.move fun _ => (toNat_zextAddr_le nnn).trans (by decide))
  case jpV0 nnn => exact .completes rfl rfl (.move fun _ => toNat_jpV0_target_le nnn _)
  case seImm | sneImm | seReg | sneReg => exact skipIf_faultsOrCompletes _ rfl
  case cls => exact .completes rfl rfl .cls
  case ret =>
    rcases execRet_cases s with ⟨h, e⟩ | ⟨h, e⟩
    · exact .completes (if_neg h.ne') e (.ret h)
    · exact .faults (if_pos h) e
  case call nnn =>
    rcases execCall_cases nnn s with ⟨h, e⟩ | ⟨h, e⟩
    · exact .completes (if_neg h.ne) e (.call h)
    · exact .faults (if_pos h) e
  case ldImm | addImm | ldReg | orReg | andReg | xorReg | ldFromDt => exact .completes rfl rfl (.register rfl rfl)
  case addReg | subReg | subnReg | shr | shl => exact .completes rfl rfl (.flagged rfl rfl)
  case ldI | ldF | addI => exact .completes rfl rfl (.index rfl)
  case rnd => exact .completes rfl rfl .rnd
  case ldDt => exact .completes rfl rfl .ldDt
  case ldSt => exact .completes rfl rfl .ldSt
  case drw x y n =>
    rcases execDrw_cases x y n s with ⟨h, e⟩ | ⟨h, e⟩
    · exact .completes (if_neg (by omega)) e .drw
    · exact .faults (if_pos (by omega)) e
  case skp x =>
    rcases execSkp_cases x s with ⟨k, hk, e⟩ | ⟨h, e⟩
    · exact .of_eq e (skipIf_faultsOrCompletes _ (if_neg (by omega)))
    · exact .faults (if_pos h) (e.trans (by rw [keyIndexTrap_eq]))
  case sknp x =>
    rcases execSknp_cases x s with ⟨k, hk, e⟩ | ⟨h, e⟩
    · exact .of_eq e (skipIf_faultsOrCompletes _ (if_neg (by omega)))
    · exact .faults (if_pos h) (e.trans (by rw [keyIndexTrap_eq]))
  case ldKey x =>
    rcases execLdKey_cases x s with ⟨k, _, e⟩ | ⟨_, e⟩
    · exact .completes rfl e (.register rfl rfl)
    · exact .completes rfl e (.move (w := s.pc) fun h => by omega)
  case ldB x => exact storeAtIdx_faultsOrCompletes (List.cons_ne_nil _ _) rfl rfl
  case storeRegs x =>
    exact storeAtIdx_faultsOrCompletes (List.ne_nil_of_length_pos (by simp)) (by rw [length_registerRange]; rfl) rfl
  case loadRegs x =>
    rcases execLoadRegs_cases x s with ⟨h, e⟩ | ⟨h, e⟩
    · exact .completes (if_neg (by omega)) e (.loadRegs (by simp))
    · exact .faults (if_pos (by omega)) e

/-- The same for an answer already known. -/
theorem exec_next_cases {i : Instr} {s t : State} (h : exec i s = .next t) :
    (∃ trap, instrFault i s = some trap ∧ t = s.enterFault trap) ∨ (instrFault i s = none ∧ Completes s i t) := by
  rcases exec_faultsOrCompletes i s with ⟨trap, hf, e⟩ | ⟨hf, u, e, hc⟩
  · cases h.symm.trans e
    exact .inl ⟨trap, hf, rfl⟩
  · cases h.symm.trans e
    exact .inr ⟨hf, hc⟩

end Sys2Proof.Machine
end

section
/-! PROOF. What the completed instructions and the faults keep: registers, the named parts, and the
invariants (spec 10_state R22, R24 to R32, R38). -/

namespace Sys2Proof.Machine

/-! ### Registers and parts -/

theorem Completes.keepsOtherRegisters {i : Instr} {s t : State} (h : Completes s i t) :
    KeepsOtherRegisters i.writtenRegs s t := by
  intro r hr
  cases h with
  | register _ regs | flagged _ regs =>
    simp only [regs, List.mem_cons, List.not_mem_nil, or_false, not_or] at hr
    simp [hr]
  | rnd | drw =>
    simp only [Instr.writtenRegs, List.mem_singleton] at hr
    simp [hr]
  | @loadRegs x bs length =>
    have hx : ¬ r.toNat < x.toNat + 1 := fun hlt =>
      hr (List.mem_map.mpr ⟨r.toNat, List.mem_range.mpr hlt, by simp⟩)
    rw [State.getV_advance, State.getV_setVFrom, dif_neg (by omega)]
  | move | index | store | cls | ret | call | ldDt | ldSt => rfl

/-- Every instruction may move the pc. -/
theorem pc_mem_writtenParts (i : Instr) : .pc ∈ i.writtenParts := by
  cases i <;> exact List.mem_cons_self

theorem Completes.frame {i : Instr} {s t : State} (h : Completes s i t) : Frame i.writtenParts s t := by
  cases h with
  | move => simp [Frame, pc_mem_writtenParts]
  | register parts | flagged parts | index parts | store parts => simp [Frame, parts]
  | cls | ret | call | rnd | drw | ldDt | ldSt | loadRegs => simp [Frame, Instr.writtenParts]

/-- A fault writes the latch alone (60_exceptions R226). -/
theorem State.enterFault_frame (s : State) (trap : Trap) : Frame [.latch] s (s.enterFault trap) := by
  simp [Frame]

/-- Settles O40: a fault writes no register, and a completed instruction its own. -/
theorem onlyDestinationRegistersChange : Obligations.OnlyDestinationRegistersChange := by
  intro i s t h
  rcases exec_next_cases h with ⟨trap, _, rfl⟩ | ⟨_, hc⟩
  · exact fun r _ => s.getV_enterFault trap r
  · exact hc.keepsOtherRegisters

/-- Settles O41, fault and completed instruction apart. -/
theorem onlyTheNamedPartsChange : Obligations.OnlyTheNamedPartsChange := by
  intro i s t h
  rcases exec_next_cases h with ⟨trap, _, rfl⟩ | ⟨_, hc⟩
  · exact .inl ⟨rfl, s.enterFault_frame trap⟩
  · exact .inr hc.frame

/-- Settles O27: the flag is written last, as a flag byte. -/
theorem flagWritersLeaveABit : Obligations.FlagWritersLeaveABit := by
  intro i s t hi h hrun
  change t.getV flagReg = 0 ∨ t.getV flagReg = 1
  cases i
  case addReg | subReg | subnReg | shr | shl =>
    cases h
    rw [State.getV_advance, State.getV_setResultAndFlag, if_pos rfl]
    exact flagByte_cases _
  case drw x y n =>
    rcases execDrw_cases x y n s with ⟨_, e⟩ | ⟨_, e⟩
    · cases h.symm.trans e
      rw [State.getV_advance, State.getV_setV, if_pos rfl]
      exact flagByte_cases _
    · cases h.symm.trans e
      cases hrun
  all_goals cases hi

/-! ### The invariants -/

theorem latchConsistent_memOob (s : State) {a : Nat} (h : 0x1000 ≤ a) (h' : a < 0x10000) :
    LatchConsistent (s.enterFault (memOobAt a)) :=
  h.trans_eq (memOobAt_info h').symm

/-- The lowest address out of bounds of an access at a 16-bit address (60_exceptions R229). -/
theorem latchConsistent_memOob_max (s : State) (w : Word) :
    LatchConsistent (s.enterFault (memOobAt (max w.toNat 0x1000))) :=
  latchConsistent_memOob s (by omega) (by omega)

theorem latchConsistent_keyIndexRange (s : State) {b : Byte} (h : 15 < b.toNat) :
    LatchConsistent (s.enterFault (keyIndexTrap b)) := by
  change 15 < (zextByte b).toNat ∧ (zextByte b).toNat ≤ 0xFF
  rw [toNat_zextByte]
  omega

/-- What an instruction's fault leaves in the latch is of its row (60_exceptions R221). -/
theorem latchConsistent_of_instrFault {i : Instr} {s : State} {trap : Trap} (h : instrFault i s = some trap) :
    LatchConsistent (s.enterFault trap) := by
  cases i
  case ret | call =>
    obtain ⟨_, rfl⟩ := Option.ite_some_none_eq_some.mp h
    rfl
  case drw | ldB | storeRegs | loadRegs =>
    obtain ⟨_, rfl⟩ := Option.ite_some_none_eq_some.mp h
    exact latchConsistent_memOob_max s s.idx
  case skp | sknp =>
    obtain ⟨hx, rfl⟩ := Option.ite_some_none_eq_some.mp h
    rw [← keyIndexTrap_eq]
    exact latchConsistent_keyIndexRange s hx
  all_goals cases h

/-- Stores of a completed instruction are inside memory. -/
theorem Completes.memWf {i : Instr} {s t : State} (h : Completes s i t) (hm : s.memWf = true) : t.memWf = true := by
  cases h with
  | store _ fits =>
    rcases fits with rfl | fits
    · exact hm
    · exact State.memWf_storeFrom hm fits
  | loadRegs => rwa [State.memWf_advance, State.memWf_setVFrom]
  | _ => exact hm

/-- A completed instruction leaves the latch as it was. -/
theorem Completes.latchConsistent {i : Instr} {s t : State} (h : Completes s i t) (hl : LatchConsistent s) :
    LatchConsistent t := by
  cases h with
  | loadRegs => simpa [LatchConsistent] using hl
  | _ => exact hl

/-- At a pc a word can be fetched at, the advanced pc is at most 0x1000; CALL alone pushes one, and RET takes one back
(10_state R24). -/
theorem Completes.pcInRange {i : Instr} {s t : State} (h : Completes s i t) (hpc : s.pc.toNat ≤ 0xFFE)
    (hr : PcInRange s) : PcInRange t := by
  have hadv : (s.pc + 2).toNat ≤ 0x1000 := by rw [toNat_advanced_pc hpc]; omega
  have hadv' : (s.pc + 2).toNat ≤ 0x10FE := by omega
  obtain ⟨_, hstack⟩ := hr
  cases h with
  | move target => exact ⟨target hpc, hstack⟩
  | ret => exact ⟨(hstack _ (by omega)).trans (by decide), hstack⟩
  | @call nnn h =>
    refine ⟨(toNat_zextAddr_le nnn).trans (by decide), fun k hk => ?_⟩
    by_cases e : s.sp.val = k
    · subst e
      simpa using hadv
    · simpa [Vector.getElem_set, e] using hstack k hk
  | loadRegs => simpa [PcInRange] using ⟨hadv', hstack⟩
  | _ => exact ⟨hadv', hstack⟩

/-- Every instruction fetched at a state that meets the invariant leaves one (10_state R38). -/
theorem exec_keeps_inv {i : Instr} {s t : State} (hi : Inv s) (hpc : s.pc.toNat ≤ 0xFFE) (h : exec i s = .next t) :
    Inv t := by
  obtain ⟨hm, hr, hl⟩ := hi
  rcases exec_next_cases h with ⟨trap, hf, rfl⟩ | ⟨_, hc⟩
  · exact ⟨hm, hr, latchConsistent_of_instrFault hf⟩
  · exact ⟨hc.memWf hm, hc.pcInRange hpc hr, hc.latchConsistent hl⟩

theorem stepCommand_keeps_inv {s t : State} (hi : Inv s) (h : stepCommand s = .next t) : Inv t := by
  have ⟨hm, hr, _⟩ := hi
  rcases stepCommand_cases s with ⟨_, e⟩ | ⟨_, _, e⟩ | ⟨_, hpc, _, ⟨er, hd, e⟩ | ⟨i, _, e⟩⟩
  · cases h.symm.trans e
    exact hi
  · cases h.symm.trans e
    exact ⟨hm, hr, latchConsistent_memOob_max s s.pc⟩
  · cases h.symm.trans e
    exact ⟨hm, hr, er, hd⟩
  · exact exec_keeps_inv hi hpc (e.symm.trans h)

/-- LOAD stores inside memory or nothing, and moves no pc (70_reset_and_hazards R263). -/
theorem State.load_keeps_inv {s : State} (hi : Inv s) (image : List Byte) : Inv (s.load image) := by
  obtain ⟨hm, hrest⟩ := hi
  unfold State.load
  split
  case isTrue fits => exact ⟨State.memWf_storeFrom hm (Nat.add_le_add_left fits entryAddr), hrest⟩
  case isFalse => exact ⟨hm, hrest⟩

theorem inv_resetWith (p : Params) : Inv (State.resetWith p) := by
  refine ⟨rfl, ⟨show (0x0200 : Word).toNat ≤ 0x10FE by decide, fun k hk => ?_⟩, rfl⟩
  simp [State.resetWith]

theorem runCommand_keeps_inv {c : Command} {s t : State} (hi : Inv s) (h : runCommand c s = .next t) : Inv t := by
  cases c with
  | step => exact stepCommand_keeps_inv hi h
  | load image => cases h; exact State.load_keeps_inv hi image
  | reset => cases h; exact inv_resetWith s.params
  | tick | setKey | readout => cases h; exact hi

/-- Settles O43. -/
theorem invariantHoldsAtReset : Obligations.InvariantHoldsAtReset :=
  ⟨inv_resetWith, inv_resetWith Config.params⟩

/-- Settles O44: the command carried out is STEP or the oldest pending one, and each keeps the invariant. -/
theorem everyStepKeepsTheInvariant : Obligations.EveryStepKeepsTheInvariant := by
  intro s t hi h
  cases hp : s.outside.pending with
  | nil => exact stepCommand_keeps_inv hi ((step_of_pending_nil hp).symm.trans h)
  | cons c rest =>
    exact runCommand_keeps_inv (s := s.setPending rest) hi ((step_of_pending_cons hp).symm.trans h)

end Sys2Proof.Machine
end

section
/-! PROOF. A step is the oldest command, a STEP the decoded instruction, and the two commands that only read or restore the
machine: reset and readout (spec 10_state R34 to R37). -/

namespace Sys2Proof.Machine

/-! ### The command carried out (R35) -/

theorem Completes.pending {i : Instr} {s t : State} (h : Completes s i t) : t.outside.pending = s.outside.pending := by
  cases h with
  | loadRegs => rw [State.advance_outside, State.setVFrom_outside]
  | _ => rfl

theorem exec_pending {i : Instr} {s t : State} (h : exec i s = .next t) : t.outside.pending = s.outside.pending := by
  rcases exec_next_cases h with ⟨trap, _, rfl⟩ | ⟨_, hc⟩
  · rfl
  · exact hc.pending

theorem stepCommand_pending {s t : State} (h : stepCommand s = .next t) : t.outside.pending = s.outside.pending := by
  rcases stepCommand_cases s with ⟨_, e⟩ | ⟨_, _, e⟩ | ⟨_, _, _, ⟨_, _, e⟩ | ⟨i, _, e⟩⟩
  · cases h.symm.trans e
    rfl
  · cases h.symm.trans e
    rfl
  · cases h.symm.trans e
    rfl
  · exact exec_pending (e.symm.trans h)

/-- LOAD writes its answer and nothing else in the record of the host (70_reset_and_hazards R263). -/
theorem State.load_outside (s : State) (image : List Byte) :
    ∃ r, (s.load image).outside = { s.outside with reply := r } := by
  unfold State.load
  split <;> exact ⟨_, rfl⟩

theorem runCommand_pending {c : Command} {s t : State} (h : runCommand c s = .next t) :
    t.outside.pending = s.outside.pending := by
  cases c with
  | step => exact stepCommand_pending h
  | load image =>
    cases h
    obtain ⟨r, e⟩ := s.load_outside image
    rw [e]
  | tick | setKey | reset | readout => cases h; rfl

/-- Only an instruction draws a random byte (42_addressing R161). -/
theorem runCommand_draws {c : Command} {s t : State} (hc : c ≠ .step) (h : runCommand c s = .next t) :
    t.outside.draws = s.outside.draws := by
  cases c with
  | step => exact absurd rfl hc
  | load image =>
    cases h
    obtain ⟨r, e⟩ := s.load_outside image
    rw [e]
  | tick | setKey | reset | readout => cases h; rfl

/-- Settles O7. -/
theorem stepCarriesOutTheOldestCommand : Obligations.StepCarriesOutTheOldestCommand := by
  refine ⟨fun _ _ _ => step_of_pending_cons, fun _ => step_of_pending_nil, fun _ _ _ => runCommand_pending,
    fun _ _ _ => runCommand_draws, fun s t h => ?_⟩
  cases h
  rfl

/-! ### The instruction a STEP runs (R37) -/

theorem decodeWord_of_decode {jpV0 : Bool} {b0 b1 : Byte} {i : Instr} (h : decode jpV0 [b0, b1] = .ok (i, [])) :
    decodeWord jpV0 (wordOfBytes b0 b1) = .ok i := by
  cases hd : decodeWord jpV0 (wordOfBytes b0 b1) with
  | error e => simp [decode, hd] at h
  | ok j =>
    simp only [decode, hd] at h
    cases h
    rfl

/-- Settles O6: with or without a pending list the STEP fetches and decodes the same word. -/
theorem stepRunsTheDecodedInstruction : Obligations.StepRunsTheDecodedInstruction := by
  intro s i hs hpc hd _
  have hdec : decodeWord s.params.jpV0Implemented (fetchedWord s) = .ok i := decodeWord_of_decode hd
  exact ⟨fun hp => (step_of_pending_nil hp).trans (stepCommand_of_decodes hs hpc hdec),
    fun rest hp => (step_of_pending_cons hp).trans (stepCommand_of_decodes (s := s.setPending rest) hs hpc hdec)⟩

/-- Where `placeWord` puts its word and leaves pc. -/
theorem State.placeWord_stored (s : State) (w : Word) : ∃ a ≤ 0xFFE, (s.placeWord w).pc.toNat = a ∧
    ∀ k, (s.placeWord w).byteAt k = (s.storeFrom a [highByte w, lowByte w]).byteAt k := by
  have ha : (if s.pc.toNat ≤ 0xFFE then s.pc.toNat else entryAddr) ≤ 0xFFE := by
    split
    · assumption
    · decide
  exact ⟨_, ha, by simp only [State.placeWord, BitVec.toNat_ofNat]; omega, fun _ => rfl⟩

theorem fetchedWord_placeWord {s : State} (hm : s.memWf = true) (w : Word) : fetchedWord (s.placeWord w) = w := by
  obtain ⟨a, ha, hpc, hbyte⟩ := s.placeWord_stored w
  have hfit : a + [highByte w, lowByte w].length ≤ 0x1000 := by simp; omega
  simp [fetchedWord, hpc, hbyte, State.byteAt_storeFrom hm hfit]

theorem State.withFetchWord_eq_placeWord (s : State) (w : Word) : s.withFetchWord 16 w.toNat = s.placeWord w := by
  rw [State.withFetchWord, Nat.mod_eq_of_lt w.isLt, BitVec.ofNat_toNat, BitVec.setWidth_eq]

/-- Settles O9: the placed word is the fetched one, in RUNNING with nothing pending. -/
theorem placedWordRunsNext : Obligations.PlacedWordRunsNext := by
  intro s w i hm hd
  rw [State.withFetchWord_eq_placeWord]
  obtain ⟨a, ha, hpc, _⟩ := s.placeWord_stored w
  have hdec : decodeWord (s.placeWord w).params.jpV0Implemented (fetchedWord (s.placeWord w)) = .ok i := by
    rw [fetchedWord_placeWord hm]
    exact hd
  exact (step_of_pending_nil rfl).trans (stepCommand_of_decodes rfl (by omega) hdec)

/-! ### Reset and readout (R34, R36) -/

theorem atReset_resetWith (p : Params) : AtReset p.font (State.resetWith p) := by
  have hv (r : Nibble) : (State.resetWith p).getV r = 0 := by simp [State.getV, State.resetWith]
  have hstack (k : Nat) (hk : k < 16) : (State.resetWith p).stack[k] = 0 := by simp [State.resetWith]
  have hkey (k : Nibble) : (State.resetWith p).getKey k = false := by simp [State.getKey, State.resetWith]
  have hzero (a : Nat) (ha : 0x50 ≤ a) : (State.resetWith p).byteAt a = 0 :=
    (State.byteAt_resetWith p a).trans (dif_neg (by omega))
  exact ⟨rfl, hv, rfl, rfl, hstack, rfl, rfl, hkey, fun x y _ _ => Display.pixel_clear x y, byteAt_resetWith_of_lt_80 p,
    fun a ha _ => hzero a ha, rfl, rfl, rfl⟩

/-- Settles O50. -/
theorem resetStateIsTheTable : Obligations.ResetStateIsTheTable :=
  ⟨atReset_resetWith, atReset_resetWith Config.params⟩

theorem Display.readout_at (d : Display) {x y : Nat} (hx : x < 64) (hy : y < 32) :
    (Display.readout d)[x + 64 * y]? = some (Display.pixel d x y) := by
  have hk : x + 64 * y < (Display.readout d).length := by rw [Display.readout_length]; omega
  rw [List.getElem?_eq_getElem hk, Display.readout_getElem]
  congr 2 <;> omega

theorem State.answer_frame (s : State) (r : Reply) : Frame [.outside] s (s.answer r) := by
  simp [Frame]

/-- Settles O56. -/
theorem readoutIsRowMajor : Obligations.ReadoutIsRowMajor := fun s =>
  ⟨_, _, rfl, rfl, Display.readout_length s.disp, fun _ _ => Display.readout_at s.disp, s.answer_frame _⟩

end Sys2Proof.Machine
end

section
/-! PROOF. Memory: every step keeps its canonical form, and what the accesses of one and two bytes answer (spec 20_memory
R60 to R72). -/

namespace Sys2Proof.Machine

/-! ### The canonical form through a step (R60) -/

theorem exec_keeps_memWf {i : Instr} {s t : State} (hm : s.memWf = true) (h : exec i s = .next t) : t.memWf = true := by
  rcases exec_next_cases h with ⟨trap, _, rfl⟩ | ⟨_, hc⟩
  · exact hm
  · exact hc.memWf hm

/-- A STEP that does nothing or faults leaves memory as it was; one that executes keeps its form by the instruction. -/
theorem stepCommand_keeps_memWf {s t : State} (hm : s.memWf = true) (h : stepCommand s = .next t) : t.memWf = true := by
  rcases stepCommand_cases s with ⟨_, e⟩ | ⟨_, _, e⟩ | ⟨_, _, _, ⟨_, _, e⟩ | ⟨i, _, e⟩⟩
  · cases h.symm.trans e
    exact hm
  · cases h.symm.trans e
    exact hm
  · cases h.symm.trans e
    exact hm
  · exact exec_keeps_memWf hm (e.symm.trans h)

/-- An image that is accepted ends inside memory (70_reset_and_hazards R263). -/
theorem State.load_keeps_memWf {s : State} (hm : s.memWf = true) (image : List Byte) : (s.load image).memWf = true := by
  unfold State.load
  split
  case isTrue fits => exact State.memWf_storeFrom hm (Nat.add_le_add_left fits entryAddr)
  case isFalse => exact hm

theorem runCommand_keeps_memWf {c : Command} {s t : State} (hm : s.memWf = true) (h : runCommand c s = .next t) :
    t.memWf = true := by
  cases c with
  | step => exact stepCommand_keeps_memWf hm h
  | load image => cases h; exact State.load_keeps_memWf hm image
  | reset => cases h; rfl
  | tick | setKey | readout => cases h; exact hm

/-- Settles O45: of the commands only LOAD and the bulk stores write bytes, all inside memory. -/
theorem everyStepKeepsMemoryCanonical : Obligations.EveryStepKeepsMemoryCanonical := by
  intro s t hm h
  cases hp : s.outside.pending with
  | nil => exact stepCommand_keeps_memWf hm ((step_of_pending_nil hp).symm.trans h)
  | cons c rest =>
    exact runCommand_keeps_memWf (s := s.setPending rest) hm ((step_of_pending_cons hp).symm.trans h)

/-! ### One byte (R66, R67) -/

theorem memRead_of_le {a : Nat} (f : Font) (m : Memory) (h : a ≤ 0xFFF) : memRead f m a = .ok (m.read f a) :=
  if_neg (by omega)

theorem memRead_of_lt {a : Nat} (f : Font) (m : Memory) (h : 0xFFF < a) : memRead f m a = .error (memOobAt a) :=
  if_pos h

theorem memWrite_of_le {a : Nat} (f : Font) (m : Memory) (b : Byte) (h : a ≤ 0xFFF) :
    memWrite f m a b = .ok (m.write f a b) :=
  if_neg (by omega)

theorem memWrite_of_lt {a : Nat} (f : Font) (m : Memory) (b : Byte) (h : 0xFFF < a) :
    memWrite f m a b = .error (memOobAt a) :=
  if_pos h

/-- Only a fault moves the latch to FAULTED (60_exceptions R226). -/
theorem Completes.status {i : Instr} {s t : State} (h : Completes s i t) : t.status = s.status := by
  cases h with
  | loadRegs => rw [State.advance_status, State.setVFrom_status]
  | _ => rfl

/-- A precise fault: the instruction has written nothing (60_exceptions R226). -/
theorem exec_mem_of_faulted {i : Instr} {s t : State} (hs : s.status = .running) (h : exec i s = .next t)
    (ht : t.status = .faulted) : t.mem = s.mem := by
  rcases exec_next_cases h with ⟨trap, _, rfl⟩ | ⟨_, hc⟩
  · rfl
  · cases ht.symm.trans (hc.status.trans hs)

/-- Settles O10: the answers by the bound, the byte by a read after a write, and the last part by the precise fault. -/
theorem memReadAndMemWrite : Obligations.MemReadAndMemWrite := by
  refine ⟨fun f m a => memRead_of_le f m, fun f m a h => ⟨_, memRead_of_lt f m h, rfl, rfl⟩,
    fun f m a b h => ⟨_, memWrite_of_lt f m b h, rfl, rfl⟩, fun f m a b hm ha => ?_, fun _ _ _ => exec_mem_of_faulted⟩
  have hread := Memory.read_write hm a b
  exact ⟨_, memWrite_of_le f m b ha, Memory.wf_write hm (by omega) b, (hread a).trans (if_pos rfl),
    fun a' hne => (hread a').trans (if_neg hne)⟩

/-! ### Two bytes (R62, R68, R72) -/

theorem fetch16_of_le {a : Nat} (f : Font) (m : Memory) (h : a ≤ 0xFFE) :
    fetch16 f m a = .ok (wordOfBytes (m.read f a) (m.read f (a + 1))) := by
  rcases fetch16_cases f m a with ⟨_, e⟩ | ⟨h', _⟩
  · exact e
  · omega

/-- The fetch faults at the lowest address that is out of bounds (60_exceptions R229). -/
theorem fetch16_of_lt {a : Nat} (f : Font) (m : Memory) (h : 0xFFE < a) :
    fetch16 f m a = .error (memOobAt (max a 0x1000)) := by
  rcases fetch16_cases f m a with ⟨h', _⟩ | ⟨_, e⟩
  · omega
  · exact e

theorem fetch16_of_byteAt {s : State} {a : Nat} (h : a ≤ 0xFFE) :
    fetch16 s.params.font s.mem a = .ok (wordOfBytes (s.byteAt a) (s.byteAt (a + 1))) :=
  fetch16_of_le s.params.font s.mem h

/-- The word 0x0000 is NOP, for both values of JP_V0_IMPLEMENTED (40_control_flow R121). -/
theorem decodeWord_zero (jpV0 : Bool) : decodeWord jpV0 0 = .ok .nop := rfl

/-- Settles O11: the bounds and the value by what Fetch16 can answer, the advance by a STEP of NOP. -/
theorem fetchIsBigEndianAndBounded : Obligations.FetchIsBigEndianAndBounded := by
  refine ⟨fun f m a h => ⟨memOobAt a, ?_, rfl, rfl⟩, fun f m => ⟨_, fetch16_of_lt f m (by omega), rfl, rfl⟩,
    fun f m a h => ⟨_, fetch16_of_le f m h, toNat_wordOfBytes _ _⟩, fun s hs hp hpc hw => ?_⟩
  · have hmax : max a 0x1000 = a := by omega
    rw [fetch16_of_lt f m (by omega), hmax]
  · have hstep : stepCommand s = exec .nop s := stepCommand_of_decodes hs hpc (by rw [hw]; exact decodeWord_zero _)
    exact ⟨s.advance, (step_of_pending_nil hp).trans hstep, BitVec.toNat_add s.pc 2⟩

/-- The bulk store in bounds puts the registers at I and goes on (46_index_bcd_bulk R202). -/
theorem execStoreRegs_of_le {x : Nibble} {s : State} (h : s.idx.toNat + x.toNat ≤ 0xFFF) :
    exec (.storeRegs x) s = .next (s.storeFrom s.idx.toNat (registerRange s x)).advance := by
  rcases storeAtIdx_cases (registerRange s x) s with ⟨_, e⟩ | ⟨⟨_, hlt⟩, _⟩
  · exact e
  · rw [length_registerRange] at hlt
    omega

/-- Byte k from I after the bulk store is V[k] (46_index_bcd_bulk R202). -/
theorem byteAt_storeFrom_registerRange {x : Nibble} {s : State} (hm : s.memWf = true)
    (h : s.idx.toNat + x.toNat ≤ 0xFFF) {k : Nat} (hk : k ≤ x.toNat) :
    (s.storeFrom s.idx.toNat (registerRange s x)).byteAt (s.idx.toNat + k) = s.getV (BitVec.ofNat 4 k) := by
  have hfit : s.idx.toNat + (registerRange s x).length ≤ 0x1000 := by rw [length_registerRange]; omega
  have hin : s.idx.toNat ≤ s.idx.toNat + k ∧ s.idx.toNat + k - s.idx.toNat < (registerRange s x).length := by
    rw [length_registerRange]
    omega
  rw [State.byteAt_storeFrom hm hfit, dif_pos hin, getElem_registerRange, Nat.add_sub_cancel_left]

/-- Settles O12: the fetch reads the same bytes the bulk store put there. -/
theorem storeIsSeenByTheNextFetch : Obligations.StoreIsSeenByTheNextFetch := by
  intro x s hm h
  refine ⟨_, execStoreRegs_of_le h, fun k hk => ?_⟩
  rw [fetch16_of_byteAt (by omega), Nat.add_assoc, State.byteAt_advance, State.byteAt_advance,
    byteAt_storeFrom_registerRange hm h (by omega), byteAt_storeFrom_registerRange hm h hk]

end Sys2Proof.Machine
end

section
/-! PROOF. The decoder against the opcode map: what a masked word says of its fields, the row a word lies in, and the
words of no row (spec 30_encoding R91 to R97). -/

namespace Sys2Proof

/-! ### A word under the masks of the map (R91, R95) -/

/-- Words with the same four nibbles are the same. -/
theorem eq_of_fields {w w' : Word} (hop : opField w = opField w') (hx : xField w = xField w')
    (hy : yField w = yField w') (hn : nField w = nField w') : w = w' := by
  rw [← packXYN_fields w, hop, hx, hy, hn, packXYN_fields]

theorem yField_eq_of_nnField_eq {w w' : Word} (h : nnField w = nnField w') : yField w = yField w' := by
  rw [← packXNN_fields w, ← packXNN_fields w', yField_packXNN, yField_packXNN, h]

theorem nField_eq_of_nnField_eq {w w' : Word} (h : nnField w = nnField w') : nField w = nField w' := by
  rw [← packXNN_fields w, ← packXNN_fields w', nField_packXNN, nField_packXNN, h]

theorem and_allOnes_nibble (a : Nibble) : a &&& 0xF = a := BitVec.and_allOnes
theorem and_allOnes_byte (a : Byte) : a &&& 0xFF = a := BitVec.and_allOnes

theorem and_F000 (w : Word) : w &&& 0xF000 = packNNN (opField w) 0 := by
  conv_lhs => rw [← packNNN_fields w, mask_F000_NNN, packNNN_and, and_allOnes_nibble, and_zero_addr]

theorem and_F00F (w : Word) : w &&& 0xF00F = packXYN (opField w) 0 0 (nField w) := by
  conv_lhs => rw [← packXYN_fields w, mask_F00F, packXYN_and]
  simp only [and_allOnes_nibble, and_zero_nibble]

theorem and_F0FF (w : Word) : w &&& 0xF0FF = packXNN (opField w) 0 (nnField w) := by
  conv_lhs => rw [← packXNN_fields w, mask_F0FF, packXNN_and]
  simp only [and_allOnes_nibble, and_allOnes_byte, and_zero_nibble]

theorem and_FFFF (w : Word) : w &&& 0xFFFF = w := BitVec.and_allOnes

/-- FF0F is no mask of the map: it clears the Y a shift does not use (R97). -/
theorem and_FF0F (w : Word) : w &&& 0xFF0F = packXYN (opField w) (xField w) 0 (nField w) := by
  have mask : (0xFF0F : Word) = packXYN 0xF 0xF 0 0xF := rfl
  conv_lhs => rw [← packXYN_fields w, mask, packXYN_and]
  simp only [and_allOnes_nibble, and_zero_nibble]

theorem opField_of_and_F000 {w k : Word} (h : w &&& 0xF000 = k) : opField w = opField k := by
  rw [← h, and_F000, opField_packNNN]

theorem fields_of_and_F00F {w k : Word} (h : w &&& 0xF00F = k) : opField w = opField k ∧ nField w = nField k := by
  rw [← h, and_F00F, opField_packXYN, nField_packXYN]
  exact ⟨rfl, rfl⟩

theorem fields_of_and_F0FF {w k : Word} (h : w &&& 0xF0FF = k) : opField w = opField k ∧ nnField w = nnField k := by
  rw [← h, and_F0FF, opField_packXNN, nnField_packXNN]
  exact ⟨rfl, rfl⟩

/-! ### The instruction of a row with a word's operands (R93, R95) -/

/-- The instruction of `r`'s row whose operands are the fields of `w` (R93, R95). -/
def Instr.withFieldsOf (r : Instr) (w : Word) : Instr :=
  match r with
  | .nop => .nop
  | .cls => .cls
  | .ret => .ret
  | .jp _ => .jp (nnnField w)
  | .call _ => .call (nnnField w)
  | .seImm _ _ => .seImm (xField w) (nnField w)
  | .sneImm _ _ => .sneImm (xField w) (nnField w)
  | .seReg _ _ => .seReg (xField w) (yField w)
  | .sneReg _ _ => .sneReg (xField w) (yField w)
  | .jpV0 _ => .jpV0 (nnnField w)
  | .ldImm _ _ => .ldImm (xField w) (nnField w)
  | .addImm _ _ => .addImm (xField w) (nnField w)
  | .ldReg _ _ => .ldReg (xField w) (yField w)
  | .orReg _ _ => .orReg (xField w) (yField w)
  | .andReg _ _ => .andReg (xField w) (yField w)
  | .xorReg _ _ => .xorReg (xField w) (yField w)
  | .addReg _ _ => .addReg (xField w) (yField w)
  | .subReg _ _ => .subReg (xField w) (yField w)
  | .subnReg _ _ => .subnReg (xField w) (yField w)
  | .shr _ => .shr (xField w)
  | .shl _ => .shl (xField w)
  | .ldI _ => .ldI (nnnField w)
  | .rnd _ _ => .rnd (xField w) (nnField w)
  | .ldF _ => .ldF (xField w)
  | .drw _ _ _ => .drw (xField w) (yField w) (nField w)
  | .skp _ => .skp (xField w)
  | .sknp _ => .sknp (xField w)
  | .ldKey _ => .ldKey (xField w)
  | .ldFromDt _ => .ldFromDt (xField w)
  | .ldDt _ => .ldDt (xField w)
  | .ldSt _ => .ldSt (xField w)
  | .addI _ => .addI (xField w)
  | .ldB _ => .ldB (xField w)
  | .storeRegs _ => .storeRegs (xField w)
  | .loadRegs _ => .loadRegs (xField w)

@[simp] theorem Instr.rowMask_withFieldsOf (r : Instr) (w : Word) : (r.withFieldsOf w).rowMask = r.rowMask := by
  cases r <;> rfl

@[simp] theorem Instr.rowMatch_withFieldsOf (r : Instr) (w : Word) : (r.withFieldsOf w).rowMatch = r.rowMatch := by
  cases r <;> rfl

@[simp] theorem Instr.wellFormed_withFieldsOf (r : Instr) (w : Word) (jpV0 : Bool) :
    (r.withFieldsOf w).wellFormed jpV0 = r.wellFormed jpV0 := by
  cases r <;> rfl

@[simp] theorem Instr.withFieldsOf_withFieldsOf (r : Instr) (w w' : Word) :
    (r.withFieldsOf w).withFieldsOf w' = r.withFieldsOf w' := by
  cases r <;> rfl

/-- The map's representatives have zero operands. -/
theorem withFieldsOf_zero_of_mem_opcodeRows : ∀ r ∈ opcodeRows, r.withFieldsOf 0 = r := by
  decide

/-- The operands of an instruction are the fields of its word. -/
theorem Instr.withFieldsOf_encode (i : Instr) : i.withFieldsOf (encode i) = i := by
  cases i <;> simp [Instr.withFieldsOf, encode]

/-- A word of `r`'s row decodes to `r`'s instruction: the mask's fields steer the dispatch on nibbles (R94). -/
theorem decodeWord_of_row {jpV0 : Bool} {w : Word} {r : Instr} (hwf : r.wellFormed jpV0 = true)
    (hrow : w &&& r.rowMask = r.rowMatch) : decodeWord jpV0 w = .ok (r.withFieldsOf w) := by
  cases r <;> dsimp only [Instr.rowMask, Instr.rowMatch] at hrow
  case nop | cls | ret =>
    cases (and_FFFF w).symm.trans hrow
    rfl
  case jp | call | seImm | sneImm | ldImm | addImm | ldI | rnd | drw =>
    rw [decodeWord, opField_of_and_F000 hrow]
    rfl
  case jpV0 =>
    rw [decodeWord, opField_of_and_F000 hrow]
    exact if_pos hwf
  case seReg | sneReg | ldReg | orReg | andReg | xorReg | addReg | subReg | subnReg | shr | shl =>
    obtain ⟨hop, hn⟩ := fields_of_and_F00F hrow
    rw [decodeWord, hop, hn]
    rfl
  case ldF | skp | sknp | ldKey | ldFromDt | ldDt | ldSt | addI | ldB | storeRegs | loadRegs =>
    obtain ⟨hop, hnn⟩ := fields_of_and_F0FF hrow
    rw [decodeWord, hop, yField_eq_of_nnField_eq hnn, nField_eq_of_nnField_eq hnn]
    rfl

/-- A word of `r`'s row is its fixed fields and its operands, but for the Y of the shifts (R97). -/
theorem encode_withFieldsOf {w : Word} {r : Instr} (hrow : w &&& r.rowMask = r.rowMatch) :
    encode (r.withFieldsOf w) = if r.rowMatch = 0x8006 ∨ r.rowMatch = 0x800E then w &&& 0xFF0F else w := by
  cases r <;>
    simp only [Instr.rowMask, Instr.rowMatch, BitVec.reduceEq, or_self, or_true, true_or, if_true, if_false] at hrow ⊢
  case nop | cls | ret => exact hrow.symm.trans (and_FFFF w)
  case jp | call | jpV0 | ldI =>
    have hop := opField_of_and_F000 hrow
    exact (congrArg (packNNN · _) hop.symm).trans (packNNN_fields w)
  case seImm | sneImm | ldImm | addImm | rnd =>
    have hop := opField_of_and_F000 hrow
    exact (congrArg (packXNN · _ _) hop.symm).trans (packXNN_fields w)
  case drw =>
    have hop := opField_of_and_F000 hrow
    exact (congrArg (packXYN · _ _ _) hop.symm).trans (packXYN_fields w)
  case seReg | sneReg | ldReg | orReg | andReg | xorReg | addReg | subReg | subnReg =>
    obtain ⟨hop, hn⟩ := fields_of_and_F00F hrow
    exact (congrArg₂ (packXYN · _ _ ·) hop.symm hn.symm).trans (packXYN_fields w)
  case shr | shl =>
    obtain ⟨hop, hn⟩ := fields_of_and_F00F hrow
    exact (congrArg₂ (packXYN · _ _ ·) hop.symm hn.symm).trans (and_FF0F w).symm
  case ldF | skp | sknp | ldKey | ldFromDt | ldDt | ldSt | addI | ldB | storeRegs | loadRegs =>
    obtain ⟨hop, hnn⟩ := fields_of_and_F0FF hrow
    exact (congrArg₂ (packXNN · _ ·) hop.symm hnn.symm).trans (packXNN_fields w)

/-! ### The words of no row (R96) -/

/-- Some row of the map, row 10 left out where the parameter is false, matches the word (R94, 40_control_flow R130). -/
def HasRow (jpV0 : Bool) (w : Word) : Prop :=
  ∃ r ∈ opcodeRows, r.wellFormed jpV0 = true ∧ w &&& r.rowMask = r.rowMatch

/-- The class table of R96, with the `Bnnn` words of a machine without JP V0 (40_control_flow R130). -/
def IllegalByClass (jpV0 : Bool) (w : Word) : Prop :=
  (opField w = 0x0 ∧ w ≠ 0x0000 ∧ w ≠ 0x00E0 ∧ w ≠ 0x00EE) ∨
  (opField w = 0x5 ∧ nField w ≠ 0x0) ∨
  (opField w = 0x8 ∧ nField w ∈ ([0x8, 0x9, 0xA, 0xB, 0xC, 0xD, 0xF] : List Nibble)) ∨
  (opField w = 0x9 ∧ nField w ≠ 0x0) ∨
  (opField w = 0xB ∧ jpV0 = false) ∨
  (opField w = 0xE ∧ nnField w ∉ ([0x9E, 0xA1] : List Byte)) ∨
  (opField w = 0xF ∧ nnField w ∉ ([0x07, 0x0A, 0x15, 0x18, 0x1E, 0x29, 0x33, 0x55, 0x65] : List Byte))

/-- In each class of the table the dispatch falls through to its last arm. -/
theorem decodeWord_of_illegalByClass {jpV0 : Bool} {w : Word} (h : IllegalByClass jpV0 w) :
    decodeWord jpV0 w = .error (.illegalOpcode w) := by
  rcases h with ⟨hop, h0, hE0, hEE⟩ | ⟨hop, hn⟩ | ⟨hop, hn⟩ | ⟨hop, hn⟩ | ⟨hop, hj⟩ | ⟨hop, hnn⟩ | ⟨hop, hnn⟩ <;>
    simp only [decodeWord, hop, BitVec.ofNat_eq_ofNat]
  · split
    next hx hy hn => exact absurd (eq_of_fields hop hx hy hn) h0
    next hx hy hn => exact absurd (eq_of_fields hop hx hy hn) hE0
    next hx hy hn => exact absurd (eq_of_fields hop hx hy hn) hEE
    next => rfl
  · split
    next hn0 => exact absurd hn0 hn
    next => rfl
  · simp only [List.mem_cons, List.not_mem_nil, or_false] at hn
    rcases hn with hn | hn | hn | hn | hn | hn | hn <;> rw [hn] <;> rfl
  · split
    next hn0 => exact absurd hn0 hn
    next => rfl
  · exact if_neg (Bool.eq_false_iff.mp hj)
  · split
    case h_3 => rfl
    all_goals next hy hn => exact absurd (by rw [nnField_eq, hy, hn]; decide) hnn
  · split
    case h_10 => rfl
    all_goals next hy hn => exact absurd (by rw [nnField_eq, hy, hn]; decide) hnn

theorem Instr.wellFormed_true (r : Instr) : r.wellFormed true = true := by
  cases r <;> rfl

theorem Instr.wellFormed_of_false {r : Instr} (h : r.wellFormed false = true) :
    ∀ jpV0 : Bool, r.wellFormed jpV0 = true
  | false => h
  | true => r.wellFormed_true

/-- A row other than row 10 whose match is the word's masked value is a row of the word. -/
theorem HasRow.of_masked {jpV0 : Bool} {w mask : Word}
    (h : ∃ r ∈ opcodeRows, r.wellFormed false = true ∧ r.rowMask = mask ∧ r.rowMatch = w &&& mask) : HasRow jpV0 w := by
  obtain ⟨r, hr, hwf, hmask, hmatch⟩ := h
  exact ⟨r, hr, Instr.wellFormed_of_false hwf jpV0, by rw [hmask, hmatch]⟩

/-- One row takes the whole op-class, or it is one of the seven classes with more to compare. -/
theorem opClass_cases (op : Nibble) :
    (∃ r ∈ opcodeRows, r.wellFormed false = true ∧ r.rowMask = 0xF000 ∧ r.rowMatch = packNNN op 0) ∨
      op = 0x0 ∨ op = 0x5 ∨ op = 0x8 ∨ op = 0x9 ∨ op = 0xB ∨ op = 0xE ∨ op = 0xF := by
  revert op
  decide

theorem exists_row_class8 : ∀ n : Nibble, n ∉ ([0x8, 0x9, 0xA, 0xB, 0xC, 0xD, 0xF] : List Nibble) →
    ∃ r ∈ opcodeRows, r.wellFormed false = true ∧ r.rowMask = 0xF00F ∧ r.rowMatch = packXYN 0x8 0 0 n := by
  decide

theorem exists_row_classE : ∀ nn ∈ ([0x9E, 0xA1] : List Byte),
    ∃ r ∈ opcodeRows, r.wellFormed false = true ∧ r.rowMask = 0xF0FF ∧ r.rowMatch = packXNN 0xE 0 nn := by
  decide

theorem exists_row_classF : ∀ nn ∈ ([0x07, 0x0A, 0x15, 0x18, 0x1E, 0x29, 0x33, 0x55, 0x65] : List Byte),
    ∃ r ∈ opcodeRows, r.wellFormed false = true ∧ r.rowMask = 0xF0FF ∧ r.rowMatch = packXNN 0xF 0 nn := by
  decide

/-- The class table leaves out no word: what it does not list has a row. -/
theorem illegalByClass_of_not_hasRow {jpV0 : Bool} {w : Word} (h : ¬ HasRow jpV0 w) : IllegalByClass jpV0 w := by
  rcases opClass_cases (opField w) with hrow | hop | hop | hop | hop | hop | hop | hop
  · exact absurd (.of_masked (and_F000 w ▸ hrow)) h
  · have h0 : w ≠ 0x0000 := fun e => h ⟨.nop, by decide, rfl, e ▸ rfl⟩
    have hE0 : w ≠ 0x00E0 := fun e => h ⟨.cls, by decide, rfl, e ▸ rfl⟩
    have hEE : w ≠ 0x00EE := fun e => h ⟨.ret, by decide, rfl, e ▸ rfl⟩
    exact .inl ⟨hop, h0, hE0, hEE⟩
  · have hn : nField w ≠ 0x0 := fun hn => h ⟨.seReg 0 0, by decide, rfl, (and_F00F w).trans (by rw [hop, hn]; rfl)⟩
    exact .inr (.inl ⟨hop, hn⟩)
  · have hn := Decidable.of_not_not fun hn => h (.of_masked (and_F00F w ▸ hop ▸ exists_row_class8 (nField w) hn))
    exact .inr (.inr (.inl ⟨hop, hn⟩))
  · have hn : nField w ≠ 0x0 := fun hn => h ⟨.sneReg 0 0, by decide, rfl, (and_F00F w).trans (by rw [hop, hn]; rfl)⟩
    exact .inr (.inr (.inr (.inl ⟨hop, hn⟩)))
  · have hj : ¬ jpV0 = true := fun hj => h ⟨.jpV0 0, by decide, hj, (and_F000 w).trans (by rw [hop]; rfl)⟩
    exact .inr (.inr (.inr (.inr (.inl ⟨hop, Bool.eq_false_iff.mpr hj⟩))))
  · have hnn := fun hnn => h (.of_masked (and_F0FF w ▸ hop ▸ exists_row_classE (nnField w) hnn))
    exact .inr (.inr (.inr (.inr (.inr (.inl ⟨hop, hnn⟩)))))
  · have hnn := fun hnn => h (.of_masked (and_F0FF w ▸ hop ▸ exists_row_classF (nnField w) hnn))
    exact .inr (.inr (.inr (.inr (.inr (.inr ⟨hop, hnn⟩)))))

/-- Everything decode can do (R94, R96). -/
theorem decodeWord_cases (jpV0 : Bool) (w : Word) :
    (∃ r ∈ opcodeRows, r.wellFormed jpV0 = true ∧ w &&& r.rowMask = r.rowMatch ∧
      decodeWord jpV0 w = .ok (r.withFieldsOf w)) ∨
    (IllegalByClass jpV0 w ∧ decodeWord jpV0 w = .error (.illegalOpcode w)) := by
  by_cases h : HasRow jpV0 w
  · obtain ⟨r, hr, hwf, hrow⟩ := h
    exact .inl ⟨r, hr, hwf, hrow, decodeWord_of_row hwf hrow⟩
  · have hc := illegalByClass_of_not_hasRow h
    exact .inr ⟨hc, decodeWord_of_illegalByClass hc⟩

end Sys2Proof
end

section
/-! PROOF. The statements about the encoding: decode and encode agree, and decode is the opcode map (spec 30_encoding R94
to R97). -/

namespace Sys2Proof

/-- The word of an instruction lies in the instruction's row (R94). -/
theorem encode_and_rowMask : ∀ i : Instr, encode i &&& i.rowMask = i.rowMatch
  | .nop => Laws.RowMatch.nop
  | .cls => Laws.RowMatch.cls
  | .ret => Laws.RowMatch.ret
  | .jp nnn => Laws.RowMatch.jp nnn
  | .call nnn => Laws.RowMatch.call nnn
  | .seImm x kk => Laws.RowMatch.seImm x kk
  | .sneImm x kk => Laws.RowMatch.sneImm x kk
  | .seReg x y => Laws.RowMatch.seReg x y
  | .sneReg x y => Laws.RowMatch.sneReg x y
  | .jpV0 nnn => Laws.RowMatch.jpV0 nnn
  | .ldImm x kk => Laws.RowMatch.ldImm x kk
  | .addImm x kk => Laws.RowMatch.addImm x kk
  | .ldReg x y => Laws.RowMatch.ldReg x y
  | .orReg x y => Laws.RowMatch.orReg x y
  | .andReg x y => Laws.RowMatch.andReg x y
  | .xorReg x y => Laws.RowMatch.xorReg x y
  | .addReg x y => Laws.RowMatch.addReg x y
  | .subReg x y => Laws.RowMatch.subReg x y
  | .subnReg x y => Laws.RowMatch.subnReg x y
  | .shr x => Laws.RowMatch.shr x
  | .shl x => Laws.RowMatch.shl x
  | .ldI nnn => Laws.RowMatch.ldI nnn
  | .rnd x kk => Laws.RowMatch.rnd x kk
  | .ldF x => Laws.RowMatch.ldF x
  | .drw x y n => Laws.RowMatch.drw x y n
  | .skp x => Laws.RowMatch.skp x
  | .sknp x => Laws.RowMatch.sknp x
  | .ldKey x => Laws.RowMatch.ldKey x
  | .ldFromDt x => Laws.RowMatch.ldFromDt x
  | .ldDt x => Laws.RowMatch.ldDt x
  | .ldSt x => Laws.RowMatch.ldSt x
  | .addI x => Laws.RowMatch.addI x
  | .ldB x => Laws.RowMatch.ldB x
  | .storeRegs x => Laws.RowMatch.storeRegs x
  | .loadRegs x => Laws.RowMatch.loadRegs x

/-- Settles O2: the word lies in its instruction's row, and its fields are the operands. -/
theorem decodeOfEncode : Obligations.DecodeOfEncode := by
  intro jpV0 i hwf
  rw [decodeWord_of_row hwf (encode_and_rowMask i), i.withFieldsOf_encode]

/-- Settles O3: what decodes is a row's instruction with the word's fields. -/
theorem encodeOfDecode : Obligations.EncodeOfDecode := by
  intro jpV0 w i h
  rcases decodeWord_cases jpV0 w with ⟨r, _, hwf, hrow, e⟩ | ⟨_, e⟩
  · cases h.symm.trans e
    rw [Instr.wellFormed_withFieldsOf, Instr.rowMatch_withFieldsOf]
    exact ⟨hwf, encode_withFieldsOf hrow⟩
  · cases h.symm.trans e

/-- A decoded word lies in the row of its instruction. -/
theorem and_rowMask_of_decodeWord {jpV0 : Bool} {w : Word} {i : Instr} (h : decodeWord jpV0 w = .ok i) :
    w &&& i.rowMask = i.rowMatch := by
  rcases decodeWord_cases jpV0 w with ⟨r, _, _, hrow, e⟩ | ⟨_, e⟩
  · cases h.symm.trans e
    rw [Instr.rowMask_withFieldsOf, Instr.rowMatch_withFieldsOf]
    exact hrow
  · cases h.symm.trans e

theorem decodeWord_ok_iff_hasRow {jpV0 : Bool} {w : Word} : (∃ i, decodeWord jpV0 w = .ok i) ↔ HasRow jpV0 w := by
  constructor
  · rintro ⟨i, h⟩
    rcases decodeWord_cases jpV0 w with ⟨r, hr, hwf, hrow, _⟩ | ⟨_, e⟩
    · exact ⟨r, hr, hwf, hrow⟩
    · cases h.symm.trans e
  · rintro ⟨r, _, hwf, hrow⟩
    exact ⟨_, decodeWord_of_row hwf hrow⟩

/-- The rows are pairwise disjoint: decode is one function, so two rows of a word give one instruction, and an instruction
tells its row (R94). -/
theorem row_unique {w : Word} {r r' : Instr} (hr : r ∈ opcodeRows) (hr' : r' ∈ opcodeRows)
    (hrow : w &&& r.rowMask = r.rowMatch) (hrow' : w &&& r'.rowMask = r'.rowMatch) : r = r' := by
  have same : r.withFieldsOf w = r'.withFieldsOf w :=
    Except.ok.inj ((decodeWord_of_row r.wellFormed_true hrow).symm.trans (decodeWord_of_row r'.wellFormed_true hrow'))
  calc r = (r.withFieldsOf w).withFieldsOf 0 := by
        rw [Instr.withFieldsOf_withFieldsOf, withFieldsOf_zero_of_mem_opcodeRows r hr]
    _ = (r'.withFieldsOf w).withFieldsOf 0 := by rw [same]
    _ = r' := by rw [Instr.withFieldsOf_withFieldsOf, withFieldsOf_zero_of_mem_opcodeRows r' hr']

theorem decodeWord_error_of_ne_ok {jpV0 : Bool} {w : Word} (h : ∀ i, decodeWord jpV0 w ≠ .ok i) :
    decodeWord jpV0 w = .error (.illegalOpcode w) := by
  rcases decodeWord_cases jpV0 w with ⟨r, _, _, _, e⟩ | ⟨_, e⟩
  · exact absurd e (h _)
  · exact e

/-- Settles O4. -/
theorem decodeFollowsMasksAndMatches : Obligations.DecodeFollowsMasksAndMatches := fun _ _ =>
  ⟨fun _ => and_rowMask_of_decodeWord, decodeWord_ok_iff_hasRow, fun _ hr _ hr' => row_unique hr hr',
    decodeWord_error_of_ne_ok⟩

/-- Settles O5: a word of a row is not refused, and every other word stands in the class table. -/
theorem illegalWordsByClass : Obligations.IllegalWordsByClass := by
  intro jpV0 w
  refine ⟨fun h => ?_, decodeWord_of_illegalByClass⟩
  rcases decodeWord_cases jpV0 w with ⟨r, _, _, _, e⟩ | ⟨hc, _⟩
  · cases h.symm.trans e
  · exact hc

/-- Settles O1: each word is evaluated. -/
theorem sampleWordOfEveryRowDecodes : Obligations.SampleWordOfEveryRowDecodes := by
  unfold Obligations.SampleWordOfEveryRowDecodes
  and_intros <;> rfl

end Sys2Proof
end

section
/-! PROOF. The control-flow instructions: what each word decodes to, where the pc goes, what the stack holds, and that
nothing else changes (spec 40_control_flow R120 to R130). -/

namespace Sys2Proof.Machine

/-! ### What moves the pc alone, and what a fault latches -/

theorem State.setPc_frame (s : State) (w : Word) : Frame [.pc] s (s.setPc w) := by
  simp [Frame]

theorem State.enterFault_latched (s : State) (trap : Trap) : Latched trap.cause trap.info (s.enterFault trap) :=
  ⟨rfl, rfl, rfl⟩

/-- Settles O13: a word that decodes to NOP lies in NOP's row, whose mask covers the whole word. -/
theorem nopOnlyAdvances : Obligations.NopOnlyAdvances := by
  refine ⟨fun jpV0 w => ⟨fun h => ?_, fun h => h ▸ decodeWord_zero jpV0⟩,
    fun _ _ hop h0 hE0 hEE => decodeWord_of_illegalByClass (.inl ⟨hop, h0, hE0, hEE⟩),
    fun s => ⟨s.advance, rfl, rfl, s.setPc_frame (s.pc + 2)⟩⟩
  calc w = w &&& 0xFFFF := (and_FFFF w).symm
    _ = 0x0000 := and_rowMask_of_decodeWord h

/-- Settles O14. -/
theorem clsClearsEveryPixel : Obligations.ClsClearsEveryPixel :=
  ⟨fun jpV0 => decodeOfEncode jpV0 .cls rfl, fun _ => ⟨_, rfl, Display.pixel_clear, rfl, Completes.cls.frame⟩⟩

/-! ### CALL and RET (R123, R125) -/

theorem exec_ret_of_pos {s : State} (h : 0 < s.sp.val) : exec .ret s =
    .next ((s.setStack ⟨s.sp.val - 1, by omega⟩ s.stack).setPc (s.stack[s.sp.val - 1]'(by omega))) := by
  rcases execRet_cases s with ⟨_, e⟩ | ⟨h0, _⟩
  · exact e
  · omega

theorem exec_ret_of_zero {s : State} (h : s.sp.val = 0) :
    exec .ret s = .next (s.enterFault { cause := .stackUnderflow, info := 0 }) := by
  rcases execRet_cases s with ⟨hpos, _⟩ | ⟨_, e⟩
  · omega
  · exact e

theorem exec_call_of_lt (nnn : Addr12) {s : State} (h : s.sp.val < 16) : exec (.call nnn) s =
    .next ((s.setStack ⟨s.sp.val + 1, by omega⟩ (s.stack.set s.sp.val (s.pc + 2) h)).setPc (zextAddr nnn)) := by
  rcases execCall_cases nnn s with ⟨_, e⟩ | ⟨hfull, _⟩
  · exact e
  · omega

theorem exec_call_of_full (nnn : Addr12) {s : State} (h : s.sp.val = 16) :
    exec (.call nnn) s = .next (s.enterFault { cause := .stackOverflow, info := 16 }) := by
  rcases execCall_cases nnn s with ⟨hlt, _⟩ | ⟨_, e⟩
  · omega
  · exact e

/-- Settles O15. -/
theorem retPopsOrUnderflows : Obligations.RetPopsOrUnderflows :=
  ⟨fun jpV0 => decodeOfEncode jpV0 .ret rfl, fun s =>
    ⟨fun h => ⟨_, exec_ret_of_zero h, s.enterFault_latched _, s.enterFault_frame _⟩,
      fun h => ⟨_, exec_ret_of_pos h, rfl, rfl, rfl, (Completes.ret h).frame⟩⟩⟩

/-- Settles O17: the pushed entry is read back from the stack array one entry was set in. -/
theorem callPushesOrOverflows : Obligations.CallPushesOrOverflows := by
  refine ⟨fun jpV0 nnn => decodeOfEncode jpV0 (.call nnn) rfl, fun nnn s =>
    ⟨fun h => ⟨_, exec_call_of_full nnn h, s.enterFault_latched _, s.enterFault_frame _⟩,
      fun h => ⟨_, exec_call_of_lt nnn h, toNat_zextAddr nnn, rfl, fun k hk => ?_, (Completes.call h).frame⟩⟩⟩
  exact (Vector.getElem_set h hk).trans (if_congr eq_comm rfl rfl)

/-- Settles O21: the entry RET pops is the one CALL set, and CALL set no entry below it. -/
theorem retUndoesCall : Obligations.RetUndoesCall := by
  intro nnn s t u hlt hcall hsp hstack
  cases hcall.symm.trans (exec_call_of_lt nnn hlt)
  have hdepth : u.sp.val = s.sp.val + 1 := congrArg Fin.val hsp
  refine ⟨_, exec_ret_of_pos (by omega), ?_, Fin.ext ?_, fun k hk hbelow => ?_⟩
  · simp [hdepth, hstack]
  · simp [hdepth]
  · simp [hstack, hbelow.ne']

/-! ### Jumps (R124, R130) -/

/-- A state that a step answers with itself is the answer of any number of steps. -/
theorem runSteps_of_step_eq_self {s : State} (h : step s = .next s) (k : Nat) : runSteps k s = .next s := by
  induction k with
  | zero => rfl
  | succ k ih =>
    rw [runSteps, h]
    exact ih

theorem exec_jp_self {nnn : Addr12} {s : State} (h : nnn.toNat = s.pc.toNat) : exec (.jp nnn) s = .next s := by
  have target : zextAddr nnn = s.pc := BitVec.eq_of_toNat_eq ((toNat_zextAddr nnn).trans h)
  calc exec (.jp nnn) s = .next (s.setPc (zextAddr nnn)) := rfl
    _ = .next s := by rw [target]; rfl

/-- Settles O16: a STEP that fetches a jump to its own address answers the state it was given. -/
theorem jpGoesToItsTarget : Obligations.JpGoesToItsTarget := by
  have decodes (jpV0 : Bool) (nnn : Addr12) : decodeWord jpV0 (packNNN 0x1 nnn) = .ok (.jp nnn) :=
    decodeOfEncode jpV0 (.jp nnn) rfl
  refine ⟨decodes, fun nnn s => ⟨_, rfl, toNat_zextAddr nnn, s.setPc_frame _⟩, fun nnn s hs hp hpc hw hself => ?_⟩
  apply runSteps_of_step_eq_self
  calc step s = stepCommand s := step_of_pending_nil hp
    _ = exec (.jp nnn) s := stepCommand_of_decodes hs hpc (hw ▸ decodes _ nnn)
    _ = .next s := exec_jp_self hself

/-- A STEP in RUNNING that fetches an illegal word latches ILLEGAL_OPCODE with it (60_exceptions R223). -/
theorem stepCommand_of_illegal {s : State} {er : DecodeError} (hs : s.status = .running) (hpc : s.pc.toNat ≤ 0xFFE)
    (hd : decodeWord s.params.jpV0Implemented (fetchedWord s) = .error er) :
    stepCommand s = .next (s.enterFault { cause := .illegalOpcode, info := fetchedWord s }) := by
  rcases stepCommand_cases s with ⟨hs', _⟩ | ⟨_, hpc', _⟩ | ⟨_, _, _, ⟨_, _, e⟩ | ⟨_, hd', _⟩⟩
  · cases hs.symm.trans hs'
  · omega
  · exact e
  · cases hd.symm.trans hd'

theorem decodeWord_jpV0_absent (nnn : Addr12) :
    decodeWord false (packNNN 0xB nnn) = .error (.illegalOpcode (packNNN 0xB nnn)) :=
  decodeWord_of_illegalByClass (.inr (.inr (.inr (.inr (.inl ⟨opField_packNNN 0xB nnn, rfl⟩)))))

/-- The sum of JP V0 stays below 2^16, so it is not reduced. -/
theorem toNat_jpV0_target (nnn : Addr12) (b : Byte) : (zextAddr nnn + zextByte b).toNat = nnn.toNat + b.toNat := by
  rw [BitVec.toNat_add, toNat_zextAddr, toNat_zextByte]
  omega

/-- Settles O20. -/
theorem jpV0AddsV0 : Obligations.JpV0AddsV0 := by
  refine ⟨fun nnn => decodeOfEncode true (.jpV0 nnn) rfl, fun nnn s hj hs hpc hw => ?_,
    fun nnn s => ⟨_, rfl, toNat_jpV0_target nnn _, s.setPc_frame _⟩⟩
  have illegal : decodeWord s.params.jpV0Implemented (fetchedWord s) = .error (.illegalOpcode (packNNN 0xB nnn)) := by
    rw [hj, hw, decodeWord_jpV0_absent]
  exact ⟨_, stepCommand_of_illegal hs hpc illegal, hw ▸ s.enterFault_latched _, s.enterFault_frame _⟩

/-! ### Skips (R126 to R129) -/

/-- A skip moves the pc by 4, no skip by 2, and nothing else changes (R120). -/
theorem skipIf_answers (b : Bool) (s : State) :
    ∃ t, skipIf b s = .next t ∧ t.pc = s.pc + (if b then 4 else 2) ∧ Frame [.pc] s t :=
  ⟨_, skipIf_eq b s, by cases b <;> rfl, s.setPc_frame _⟩

theorem skipIf_beq_answers (a b : Byte) (s : State) :
    ∃ t, skipIf (a == b) s = .next t ∧ t.pc = s.pc + (if a = b then 4 else 2) ∧ Frame [.pc] s t := by
  simpa only [beq_iff_eq] using skipIf_answers (a == b) s

theorem skipIf_bne_answers (a b : Byte) (s : State) :
    ∃ t, skipIf (a != b) s = .next t ∧ t.pc = s.pc + (if a = b then 2 else 4) ∧ Frame [.pc] s t := by
  simpa only [bne_iff_ne, ne_eq, ite_not] using skipIf_answers (a != b) s

/-- Settles O18. -/
theorem skipsOnImmediate : Obligations.SkipsOnImmediate :=
  ⟨fun jpV0 x kk => ⟨decodeOfEncode jpV0 (.seImm x kk) rfl, decodeOfEncode jpV0 (.sneImm x kk) rfl⟩,
    fun x kk s => ⟨skipIf_beq_answers (s.getV x) kk s, skipIf_bne_answers (s.getV x) kk s⟩⟩

/-- Settles O19: the words with another low nibble stand in the class table of the illegal ones. -/
theorem skipsOnRegister : Obligations.SkipsOnRegister := by
  refine ⟨fun jpV0 x y => ⟨decodeOfEncode jpV0 (.seReg x y) rfl, decodeOfEncode jpV0 (.sneReg x y) rfl⟩,
    fun jpV0 x y n hn => ⟨decodeWord_of_illegalByClass ?_, decodeWord_of_illegalByClass ?_⟩,
    fun x y s => ⟨skipIf_beq_answers (s.getV x) (s.getV y) s, skipIf_bne_answers (s.getV x) (s.getV y) s⟩⟩
  · exact .inr (.inl ⟨opField_packXYN 0x5 x y n, by rwa [nField_packXYN]⟩)
  · exact .inr (.inr (.inr (.inl ⟨opField_packXYN 0x9 x y n, by rwa [nField_packXYN]⟩)))

end Sys2Proof.Machine
end

section
/-! PROOF. Immediate and register arithmetic: the value of each result and flag, and that an instruction falls through with
nothing else changed (spec 41_arithmetic R140 to R152). -/

namespace Sys2Proof.Machine

/-! ### What an arithmetic instruction writes (R141) -/

/-- The instruction falls through, and no register but those of `regs` and no other part changes (R140). -/
def FallsThrough (regs : List Nibble) (s t : State) : Prop :=
  t.pc = s.pc + 2 ∧ KeepsOtherRegisters regs s t ∧ Frame [.pc, .v] s t

/-- One written register, by what is known of LD Vx, kk, which writes any byte to any register. -/
theorem State.setV_fallsThrough (s : State) (x : Nibble) (b : Byte) : FallsThrough [x] s (s.setV x b).advance :=
  have completes : Completes s (.ldImm x b) (s.setV x b).advance := .register rfl rfl
  ⟨rfl, completes.keepsOtherRegisters, completes.frame⟩

/-- A written result and flag, by what is known of any instruction that writes the two. -/
theorem State.setResultAndFlag_fallsThrough (s : State) (x : Nibble) (r f : Byte) :
    FallsThrough [x, flagReg] s (s.setResultAndFlag x r f).advance :=
  have completes : Completes s (.shr x) (s.setResultAndFlag x r f).advance := .flagged rfl rfl
  ⟨rfl, completes.keepsOtherRegisters, completes.frame⟩

theorem State.getV_setV_advance (s : State) (x : Nibble) (b : Byte) : (s.setV x b).advance.getV x = b := by
  rw [State.getV_advance, State.getV_setV, if_pos rfl]

/-- The flag is written last, so it stands in VF for every X (R141 c). -/
theorem State.getV_setResultAndFlag_flag (s : State) (x : Nibble) (r f : Byte) :
    (s.setResultAndFlag x r f).advance.getV flagReg = f := by
  rw [State.getV_advance, State.getV_setResultAndFlag, if_pos rfl]

/-- The result stands in V[X] unless the flag was written over it (R141 c). -/
theorem State.getV_setResultAndFlag_result (s : State) {x : Nibble} (r f : Byte) (hx : x ≠ flagReg) :
    (s.setResultAndFlag x r f).advance.getV x = r := by
  rw [State.getV_advance, State.getV_setResultAndFlag, if_neg hx, if_pos rfl]

/-! ### Immediates, copy and logic (R142 to R147) -/

/-- Settles O22. -/
theorem immediateLoadAndAdd : Obligations.ImmediateLoadAndAdd := by
  refine ⟨fun jpV0 x kk => ⟨decodeOfEncode jpV0 (.ldImm x kk) rfl, decodeOfEncode jpV0 (.addImm x kk) rfl⟩,
    fun x kk s => ⟨⟨_, rfl, s.getV_setV_advance x kk, s.setV_fallsThrough x kk⟩, _, rfl, ?_, s.setV_fallsThrough x _⟩⟩
  rw [State.getV_setV_advance, BitVec.toNat_add]

/-- Settles O23: each result is read back from V[X], bit by bit. -/
theorem copyAndLogic : Obligations.CopyAndLogic := by
  refine ⟨fun jpV0 x y => ⟨decodeOfEncode jpV0 (.ldReg x y) rfl, decodeOfEncode jpV0 (.orReg x y) rfl,
    decodeOfEncode jpV0 (.andReg x y) rfl, decodeOfEncode jpV0 (.xorReg x y) rfl⟩, fun x y s =>
    ⟨⟨_, rfl, s.getV_setV_advance x _, s.setV_fallsThrough x _⟩, ⟨_, rfl, fun k => ?or, s.setV_fallsThrough x _⟩,
      ⟨_, rfl, fun k => ?and, s.setV_fallsThrough x _⟩, ⟨_, rfl, fun k => ?xor, s.setV_fallsThrough x _⟩⟩⟩
  case or => rw [State.getV_setV_advance, BitVec.getLsbD_or]
  case and => rw [State.getV_setV_advance, BitVec.getLsbD_and]
  case xor => rw [State.getV_setV_advance, BitVec.getLsbD_xor]

/-! ### Sum and difference (R148 to R150) -/

theorem flagByte_decide (p : Prop) [Decidable p] : flagByte (decide p) = if p then 1 else 0 :=
  if_congr decide_eq_true_iff rfl rfl

theorem carryFlag_eq (a b : Byte) : carryFlag a b = if a.toNat + b.toNat ≥ 256 then 1 else 0 := flagByte_decide _

theorem noBorrowFlag_eq (a b : Byte) : noBorrowFlag a b = if a.toNat ≥ b.toNat then 1 else 0 := flagByte_decide _

theorem toNat_byte_sub (a b : Byte) : (a - b).toNat = (a.toNat + 256 - b.toNat) % 256 := by
  rw [BitVec.toNat_sub]
  omega

/-- Settles O24. -/
theorem addRegistersWithCarry : Obligations.AddRegistersWithCarry := by
  refine ⟨fun jpV0 x y => decodeOfEncode jpV0 (.addReg x y) rfl, fun x y s =>
    ⟨_, rfl, fun hx => ?_, (s.getV_setResultAndFlag_flag x _ _).trans (carryFlag_eq _ _),
      s.setResultAndFlag_fallsThrough x _ _⟩⟩
  rw [s.getV_setResultAndFlag_result _ _ hx, BitVec.toNat_add]

/-- A difference and its NOT borrow written to V[X] and VF, for either order of the operands (R149, R150). -/
theorem difference_answers (a b : Byte) (x : Nibble) (s : State) :
    ∃ t, (.next (s.setResultAndFlag x (a - b) (noBorrowFlag a b)).advance : Result) = .next t ∧
      (x ≠ 0xF → (t.getV x).toNat = (a.toNat + 256 - b.toNat) % 256) ∧
      t.getV 0xF = (if a.toNat ≥ b.toNat then 1 else 0) ∧ FallsThrough [x, 0xF] s t := by
  refine ⟨_, rfl, fun hx => ?_, (s.getV_setResultAndFlag_flag x _ _).trans (noBorrowFlag_eq a b),
    s.setResultAndFlag_fallsThrough x _ _⟩
  rw [s.getV_setResultAndFlag_result _ _ hx, toNat_byte_sub]

/-- Settles O25: the two instructions are one difference, its operands in either order. -/
theorem subtractBothWays : Obligations.SubtractBothWays :=
  ⟨fun jpV0 x y => ⟨decodeOfEncode jpV0 (.subReg x y) rfl, decodeOfEncode jpV0 (.subnReg x y) rfl⟩,
    fun x y s => ⟨difference_answers (s.getV x) (s.getV y) x s, difference_answers (s.getV y) (s.getV x) x s⟩⟩

/-! ### Shifts (R151, R152) -/

/-- A word of class 8 lies in the row its low nibble names, whatever its X and Y. -/
theorem decodeWord_class8 (jpV0 : Bool) (x y : Nibble) {n : Nibble} {r : Instr} (hwf : r.wellFormed jpV0 = true)
    (hmask : r.rowMask = 0xF00F) (hmatch : r.rowMatch = packXYN 0x8 0 0 n) :
    decodeWord jpV0 (packXYN 0x8 x y n) = .ok (r.withFieldsOf (packXYN 0x8 x y n)) :=
  decodeWord_of_row hwf (by rw [hmask, hmatch, and_F00F, opField_packXYN, nField_packXYN])

/-- Every Y gives the same instruction (30_encoding R97). -/
theorem decodeWord_shr (jpV0 : Bool) (x y : Nibble) : decodeWord jpV0 (packXYN 0x8 x y 0x6) = .ok (.shr x) := by
  rw [decodeWord_class8 (r := .shr x) jpV0 x y rfl rfl rfl, Instr.withFieldsOf, xField_packXYN]

/-- Every Y gives the same instruction (30_encoding R97). -/
theorem decodeWord_shl (jpV0 : Bool) (x y : Nibble) : decodeWord jpV0 (packXYN 0x8 x y 0xE) = .ok (.shl x) := by
  rw [decodeWord_class8 (r := .shl x) jpV0 x y rfl rfl rfl, Instr.withFieldsOf, xField_packXYN]

theorem toNat_flagByte_getLsbD (a : Byte) (k : Nat) : (flagByte (a.getLsbD k)).toNat = a.toNat / 2 ^ k % 2 := by
  rw [← Nat.toNat_testBit]
  change (flagByte (a.getLsbD k)).toNat = (a.getLsbD k).toNat
  cases a.getLsbD k <;> rfl

theorem toNat_lowBitFlag (a : Byte) : (lowBitFlag a).toNat = a.toNat % 2 := by
  rw [lowBitFlag, toNat_flagByte_getLsbD, pow_zero, Nat.div_one]

/-- A byte is below 256, so bit 7 is the whole quotient by 128. -/
theorem toNat_highBitFlag (a : Byte) : (highBitFlag a).toNat = a.toNat / 128 := by
  rw [highBitFlag, toNat_flagByte_getLsbD]
  omega

theorem toNat_byte_shiftLeft_one (a : Byte) : (a <<< 1).toNat = 2 * a.toNat % 256 := by
  rw [BitVec.toNat_shiftLeft, Nat.shiftLeft_eq, pow_one, Nat.mul_comm]

/-- Settles O26. -/
theorem shiftsByOneBit : Obligations.ShiftsByOneBit := by
  refine ⟨fun jpV0 x y => ⟨decodeWord_shr jpV0 x y, decodeWord_shl jpV0 x y⟩, fun x s =>
    ⟨⟨_, rfl, fun hx => ?right,
        (congrArg BitVec.toNat (s.getV_setResultAndFlag_flag x _ _)).trans (toNat_lowBitFlag _),
        s.setResultAndFlag_fallsThrough x _ _⟩,
      ⟨_, rfl, fun hx => ?left,
        (congrArg BitVec.toNat (s.getV_setResultAndFlag_flag x _ _)).trans (toNat_highBitFlag _),
        s.setResultAndFlag_fallsThrough x _ _⟩⟩⟩
  case right => rw [s.getV_setResultAndFlag_result _ _ hx, BitVec.toNat_ushiftRight, Nat.shiftRight_one]
  case left => rw [s.getV_setResultAndFlag_result _ _ hx, toNat_byte_shiftLeft_one]

end Sys2Proof.Machine
end

section
/-! PROOF. The addressing instructions, and that only RND reads or changes the model's record of the host (spec 42_addressing
R160 to R162; log 5, 18). -/

namespace Sys2Proof.Machine

/-! ### RND (R161) -/

theorem State.getV_setV_drawn_advance (s : State) (x : Nibble) (b : Byte) : (s.setV x b).drawn.advance.getV x = b := by
  rw [State.getV_advance, State.getV_drawn, State.getV_setV, if_pos rfl]

/-- Settles O29: V[X] is read back as the masked draw, and masking clears bits and never raises a value, whatever the byte
drawn. -/
theorem rndMasksAFreeByte : Obligations.RndMasksAFreeByte := by
  refine ⟨fun jpV0 x kk => decodeOfEncode jpV0 (.rnd x kk) rfl, fun x kk s => ?_⟩
  have value := s.getV_setV_drawn_advance x (s.nextRandom &&& kk)
  have completes : Completes s (.rnd x kk) (s.setV x (s.nextRandom &&& kk)).drawn.advance := .rnd
  refine ⟨_, rfl, value, fun k hk => ?bits, ?bound, rfl, completes.keepsOtherRegisters, rfl, completes.frame⟩
  case bits => rw [value, BitVec.getLsbD_and, hk, Bool.and_false]
  case bound =>
    rw [value, BitVec.toNat_and]
    exact Nat.and_le_right

/-! ### The record of the host (log 5, 18) -/

/-- `s` under another record of the host. -/
def State.setOutside (s : State) (o : Outside) : State := { s with outside := o }

/-- The answer of a step under another record of the host. -/
def answerUnder (o : Outside) : Result → Result
  | .next t => .next (t.setOutside o)
  | .fault r => .fault r
  | .refused r => .refused r

section
variable (s : State) (o : Outside)

@[simp] theorem State.setOutside_idx : (s.setOutside o).idx = s.idx := rfl
@[simp] theorem State.setOutside_mem : (s.setOutside o).mem = s.mem := rfl
@[simp] theorem State.setOutside_params : (s.setOutside o).params = s.params := rfl
@[simp] theorem State.getV_setOutside (r : Nibble) : (s.setOutside o).getV r = s.getV r := rfl
@[simp] theorem lowestPressed_setOutside : lowestPressed (s.setOutside o) = lowestPressed s := rfl

theorem State.setVFrom_setOutside (k : Nat) (bs : List Byte) :
    (s.setOutside o).setVFrom k bs = (s.setVFrom k bs).setOutside o := by
  induction bs generalizing s k with
  | nil => rfl
  | cons b bs ih => exact ih { s with v := s.v.setIfInBounds k b } (k + 1)

theorem skipIf_setOutside (b : Bool) : skipIf b (s.setOutside o) = answerUnder o (skipIf b s) := by
  cases b <;> rfl

/-- The two bulk stores, whether every write is in bounds or not (46_index_bcd_bulk R201, R202). -/
theorem storeAtIdx_setOutside (bs : List Byte) :
    storeAtIdx bs (s.setOutside o) = answerUnder o (storeAtIdx bs s) := by
  simp only [storeAtIdx, State.setOutside_params, State.setOutside_mem, State.setOutside_idx]
  cases memWriteAll s.params.font s.mem s.idx.toNat bs <;> rfl

/-- Every instruction but RND answers alike under any record of the host: what its meaning branches on is no part of the
record, and each branch answers under the new record what it answered under the old. -/
theorem exec_setOutside {i : Instr} (hi : ∀ x kk, i ≠ .rnd x kk) :
    exec i (s.setOutside o) = answerUnder o (exec i s) := by
  cases i
  case rnd x kk => exact absurd rfl (hi x kk)
  case seImm | sneImm | seReg | sneReg => exact skipIf_setOutside s o _
  case ldB | storeRegs => exact storeAtIdx_setOutside s o _
  case ret =>
    rcases execRet_cases s with ⟨h, e⟩ | ⟨h, e⟩
    · exact (exec_ret_of_pos (s := s.setOutside o) h).trans (congrArg (answerUnder o) e.symm)
    · exact (exec_ret_of_zero (s := s.setOutside o) h).trans (congrArg (answerUnder o) e.symm)
  case call nnn =>
    rcases execCall_cases nnn s with ⟨h, e⟩ | ⟨h, e⟩
    · exact (exec_call_of_lt nnn (s := s.setOutside o) h).trans (congrArg (answerUnder o) e.symm)
    · exact (exec_call_of_full nnn (s := s.setOutside o) h).trans (congrArg (answerUnder o) e.symm)
  case drw x y n =>
    simp only [exec, execDrw, State.setOutside_params, State.setOutside_mem, State.setOutside_idx]
    cases memReadAll s.params.font s.mem s.idx.toNat n.toNat <;> rfl
  case skp x | sknp x =>
    simp only [exec, execSkp, execSknp, State.getV_setOutside]
    cases keyOfByte (s.getV x) with
    | none => rfl
    | some k => exact skipIf_setOutside s o _
  case ldKey x =>
    simp only [exec, execLdKey, lowestPressed_setOutside]
    cases lowestPressed s <;> rfl
  case loadRegs x =>
    simp only [exec, execLoadRegs, State.setOutside_params, State.setOutside_mem, State.setOutside_idx]
    cases memReadAll s.params.font s.mem s.idx.toNat (x.toNat + 1) with
    | error trap => rfl
    | ok bs => exact congrArg (fun u : State => (.next u.advance : Result)) (s.setVFrom_setOutside o 0 bs)
  all_goals rfl

end

/-- Settles O42. -/
theorem hostRecordDoesNotInterfere : Obligations.HostRecordDoesNotInterfere := by
  intro i s t o hi h
  calc exec i (s.setOutside o) = answerUnder o (exec i s) := exec_setOutside s o hi
    _ = .next (t.setOutside o) := congrArg (answerUnder o) h

/-! ### LD I and LD F (R160, R162) -/

/-- One written I, by what is known of LD I, nnn, which writes I alone. -/
theorem State.setIdx_advance_frame (s : State) (a : Word) : Frame [.pc, .idx] s (s.setIdx a).advance :=
  (Completes.index rfl : Completes s (.ldI 0) (s.setIdx a).advance).frame

/-- Settles O28: the address is the immediate, or the glyph's by the low nibble. -/
theorem indexLoads : Obligations.IndexLoads :=
  ⟨fun jpV0 nnn => decodeOfEncode jpV0 (.ldI nnn) rfl, fun jpV0 x => decodeOfEncode jpV0 (.ldF x) rfl,
    fun nnn s => ⟨_, rfl, toNat_zextAddr nnn, rfl, s.setIdx_advance_frame _⟩,
    fun x s => ⟨_, rfl, toNat_glyphAddr (s.getV x), rfl, s.setIdx_advance_frame _⟩⟩

end Sys2Proof.Machine
end

section
/-! PROOF. The draw instruction: the pixels it flips, the collision it reports, its fault, and the same sprite drawn twice or
across the right edge (spec 43_display R170 to R172). -/

namespace Sys2Proof.Machine

/-! ### What a drawing tells of the pixels (R171, R172) -/

/-- A collision is a pixel that went from on to off: such a pixel is covered, and a covered one that was on goes off. -/
theorem Draws.collision_iff {cov : Nat → Nat → Prop} {d d' : Display} {hit : Bool} (h : Draws cov (d, false) (d', hit)) :
    hit = true ↔ ∃ px py, Display.pixel d px py = true ∧ Display.pixel d' px py = false := by
  obtain ⟨pixels, collision⟩ := h
  constructor
  · intro hhit
    obtain ⟨px, py, hcov, hon⟩ := (collision.mp hhit).resolve_left Bool.false_ne_true
    exact ⟨px, py, hon, ((pixels px py).1 hcov).trans (congrArg Bool.not hon)⟩
  · rintro ⟨px, py, hon, hoff⟩
    have hcov : cov px py := by
      by_contra hcov
      cases hoff.symm.trans (((pixels px py).2 hcov).trans hon)
    exact collision.mpr (.inr ⟨px, py, hcov, hon⟩)

/-- Flipped twice or never, each pixel is as it was (R172 a). -/
theorem Draws.twice {cov : Nat → Nat → Prop} {a b b' c : Display × Bool} (h : Draws cov a b) (h' : Draws cov b' c)
    (hb : b'.1 = b.1) (px py : Nat) : Display.pixel c.1 px py = Display.pixel a.1 px py := by
  obtain ⟨first, _⟩ := h
  obtain ⟨second, _⟩ := h'
  by_cases hcov : cov px py
  · rw [(second px py).1 hcov, hb, (first px py).1 hcov, Bool.not_not]
  · rw [(second px py).2 hcov, hb, (first px py).2 hcov]

/-- Only a pixel of the display can be on (10_state R28). -/
theorem Display.lt_of_pixel {d : Display} {px py : Nat} (h : Display.pixel d px py = true) : px < 64 ∧ py < 32 := by
  by_contra hout
  cases h.symm.trans (d.pixel_of_ge hout)

/-! ### What DRW does (R171) -/

/-- The pixels the sprite of DRW Vx, Vy, n covers at `s` (R170). -/
def DrwCovers (x y n : Nibble) (s : State) : Nat → Nat → Prop :=
  SpriteCovers (spriteRows s n.toNat) (s.getV x).toNat (s.getV y).toNat

/-- `s` after a DRW that left the display `d` and the collision bit `hit`. -/
def State.afterDrw (s : State) (d : Display) (hit : Bool) : State := ((s.setDisp d).setV flagReg (flagByte hit)).advance

theorem State.getV_afterDrw (s : State) (d : Display) (hit : Bool) (r : Nibble) :
    (s.afterDrw d hit).getV r = if r = flagReg then flagByte hit else s.getV r :=
  (s.setDisp d).getV_setV flagReg (flagByte hit) r

theorem State.getV_flag_afterDrw (s : State) (d : Display) (hit : Bool) :
    (s.afterDrw d hit).getV flagReg = flagByte hit :=
  (s.getV_afterDrw d hit flagReg).trans (if_pos rfl)

/-- In bounds, or with no rows, DRW draws its sprite and goes on. -/
theorem exec_drw_of_le {x y n : Nibble} {s : State} (h : n.toNat = 0 ∨ s.idx.toNat + n.toNat ≤ 0x1000) :
    ∃ d hit, exec (.drw x y n) s = .next (s.afterDrw d hit) ∧ Draws (DrwCovers x y n s) (s.disp, false) (d, hit) := by
  rcases execDrw_cases x y n s with ⟨_, e⟩ | ⟨hout, _⟩
  · exact ⟨_, _, e, drawSprite_draws s.disp _ _ (spriteRows_length_le s n)⟩
  · omega

/-- Out of bounds DRW faults at the lowest such address (60_exceptions R229). -/
theorem exec_drw_of_lt {x y n : Nibble} {s : State} (hn : n.toNat ≠ 0) (h : 0x1000 < s.idx.toNat + n.toNat) :
    exec (.drw x y n) s = .next (s.enterFault (memOobAt (max s.idx.toNat 0x1000))) := by
  rcases execDrw_cases x y n s with ⟨hin, _⟩ | ⟨_, e⟩
  · omega
  · exact e

/-- Settles O30: the pixels and the collision by what a drawing does, the frame by what is known of a completed DRW. -/
theorem drawFlipsTheCoveredPixels : Obligations.DrawFlipsTheCoveredPixels := by
  refine ⟨fun jpV0 x y n => decodeOfEncode jpV0 (.drw x y n) rfl, fun x y n s => ⟨fun h => ?inBounds, fun hn h =>
    ⟨_, exec_drw_of_lt hn h, s.enterFault_latched _, s.enterFault_frame _⟩⟩⟩
  case inBounds =>
    obtain ⟨d, hit, hexec, hdraw⟩ := exec_drw_of_le (x := x) (y := y) h
    have completes : Completes s (.drw x y n) (s.afterDrw d hit) := .drw
    have flag := s.getV_flag_afterDrw d hit
    refine ⟨_, hexec, fun px py _ _ => hdraw.1 px py, ?collision, ?noCollision, rfl, completes.keepsOtherRegisters,
      completes.frame⟩
    case collision =>
      rintro ⟨px, py, _, _, hon, hoff⟩
      exact flag.trans (congrArg flagByte (hdraw.collision_iff.mpr ⟨px, py, hon, hoff⟩))
    case noCollision =>
      intro stays
      have miss : hit = false := by
        rw [← Bool.not_eq_true, hdraw.collision_iff]
        rintro ⟨px, py, hon, hoff⟩
        obtain ⟨hx, hy⟩ := Display.lt_of_pixel hon
        cases hoff.symm.trans (stays px py hx hy hon)
      exact flag.trans (congrArg flagByte miss)

/-! ### Drawing twice, and at the right edge (R172) -/

/-- The next DRW of the same X, Y and n covers the same pixels, where its coordinates are not in VF. -/
theorem drwCovers_afterDrw {x y : Nibble} (hx : x ≠ flagReg) (hy : y ≠ flagReg) (n : Nibble) (s : State) (d : Display)
    (hit : Bool) : DrwCovers x y n (s.afterDrw d hit) = DrwCovers x y n s := by
  rw [DrwCovers, State.getV_afterDrw, State.getV_afterDrw, if_neg hx, if_neg hy]
  rfl

theorem length_spriteRows (s : State) (n : Nat) : (spriteRows s n).length = n := by
  rw [spriteRows, List.length_map, List.length_range]

/-- A set bit of the first row covers its column of that row (R170). -/
theorem drwCovers_firstRow {x y n : Nibble} {s : State} (hn : 1 ≤ n.toNat) {c : Nat} (hc : c < 8)
    (hbit : (s.byteAt s.idx.toNat).getLsbD (7 - c) = true) :
    DrwCovers x y n s (((s.getV x).toNat + c) % 64) ((s.getV y).toNat % 32) :=
  ⟨0, c, by rw [length_spriteRows]; exact hn, hc, by simpa [spriteRows] using hbit, rfl, rfl⟩

/-- Settles O31: the second drawing covers the pixels of the first; column c of a sprite at x = 63 is column
(63 + c) mod 64. -/
theorem drawTwiceRestoresAndWraps : Obligations.DrawTwiceRestoresAndWraps := by
  refine ⟨fun x y n s hx hy h => ?twice, fun x y n s hn h h63 hclear => ?wraps⟩
  case twice =>
    obtain ⟨d, hit, hexec, hdraw⟩ := exec_drw_of_le (x := x) (y := y) h
    obtain ⟨d', hit', hexec', hdraw'⟩ := exec_drw_of_le (x := x) (y := y) (s := s.afterDrw d hit) h
    rw [drwCovers_afterDrw hx hy] at hdraw'
    have restored := hdraw.twice hdraw' rfl
    refine ⟨_, _, hexec, hexec', restored, ?_⟩
    rintro ⟨px, py, hcov, hoff⟩
    have hon : Display.pixel d px py = true := by
      rw [(hdraw.1 px py).1 hcov, hoff, Bool.not_false]
    have collides : hit' = true := hdraw'.collision_iff.mpr ⟨px, py, hon, (restored px py).trans hoff⟩
    exact ((s.afterDrw d hit).getV_flag_afterDrw d' hit').trans (congrArg flagByte collides)
  case wraps =>
    obtain ⟨d, hit, hexec, hdraw⟩ := exec_drw_of_le (x := x) (y := y) (.inr h)
    refine ⟨_, hexec, fun c hc hbit => ?_⟩
    have column : ((s.getV x).toNat + c) % 64 = if c = 0 then 63 else c - 1 := by
      split <;> omega
    have hcov := column ▸ drwCovers_firstRow (x := x) (y := y) hn hc hbit
    calc Display.pixel d _ _ = !Display.pixel s.disp _ _ := (hdraw.1 _ _).1 hcov
      _ = true := by rw [hclear, Bool.not_false]

end Sys2Proof.Machine
end

section
/-! PROOF. Key input: the two skips by the level of a key and their fault above 15, and the wait for the lowest pressed key
(spec 44_input R180 to R182, 60_exceptions R227). -/

namespace Sys2Proof.Machine

/-! ### The key skips (R180, R181, R227) -/

/-- The answer `r` at `s` of a skip by the key whose index is in Vx: it skips where `skips` holds of the key, and faults
where the index names no key. -/
def KeySkipAnswer (skips : Nibble → Bool) (x : Nibble) (s : State) (r : Result) : Prop :=
  (∃ k : Nibble, k.toNat = (s.getV x).toNat ∧ r = skipIf (skips k) s) ∨
  (15 < (s.getV x).toNat ∧ r = .next (s.enterFault (keyIndexTrap (s.getV x))))

theorem exec_skp_keySkipAnswer (x : Nibble) (s : State) : KeySkipAnswer s.getKey x s (exec (.skp x) s) :=
  execSkp_cases x s

theorem exec_sknp_keySkipAnswer (x : Nibble) (s : State) :
    KeySkipAnswer (fun k => !s.getKey k) x s (exec (.sknp x) s) :=
  execSknp_cases x s

section
variable {skips : Nibble → Bool} {x : Nibble} {s : State} {r : Result}

/-- An index of at most 15 names one key, which decides the skip. -/
theorem KeySkipAnswer.skips_of_index (h : KeySkipAnswer skips x s r) {k : Nibble} (hk : (s.getV x).toNat = k.toNat) :
    ∃ t, r = .next t ∧ t.pc = s.pc + (if skips k then 4 else 2) ∧ Frame [.pc] s t := by
  rcases h with ⟨k', hk', rfl⟩ | ⟨hout, _⟩
  · cases BitVec.eq_of_toNat_eq (hk'.trans hk)
    exact skipIf_answers (skips k) s
  · omega

theorem KeySkipAnswer.faults_of_lt (h : KeySkipAnswer skips x s r) (hout : 15 < (s.getV x).toNat) :
    ∃ t, r = .next t ∧ Latched .keyIndexRange (BitVec.ofNat 16 (s.getV x).toNat) t ∧ Frame [.latch] s t := by
  rcases h with ⟨k, hk, _⟩ | ⟨_, e⟩
  · omega
  · rw [keyIndexTrap_eq] at e
    exact ⟨_, e, s.enterFault_latched _, s.enterFault_frame _⟩

end

/-- Settles O32: SKNP is SKP with the level of the key negated. -/
theorem keySkips : Obligations.KeySkips := by
  refine ⟨fun jpV0 x => ⟨decodeOfEncode jpV0 (.skp x) rfl, decodeOfEncode jpV0 (.sknp x) rfl⟩,
    fun x s => ⟨fun k hk => ⟨(exec_skp_keySkipAnswer x s).skips_of_index hk, ?notPressed⟩,
      fun hout => ⟨(exec_skp_keySkipAnswer x s).faults_of_lt hout, (exec_sknp_keySkipAnswer x s).faults_of_lt hout⟩⟩⟩
  case notPressed =>
    simpa only [Bool.not_eq_true', ← Bool.not_eq_true, ite_not] using (exec_sknp_keySkipAnswer x s).skips_of_index hk

/-! ### The key wait (R182) -/

/-- The lowest pressed key is the one pressed key with none pressed below it. -/
theorem eq_of_lowestPressed {s : State} {j k : Nibble} (hj : lowestPressed s = some j) (hk : s.getKey k = true)
    (hbelow : ∀ i : Nibble, i.toNat < k.toNat → s.getKey i = false) : j = k := by
  obtain ⟨hpressed, hleast⟩ := lowestPressed_some hj
  rcases lt_trichotomy j.toNat k.toNat with hlt | heq | hgt
  · cases hpressed.symm.trans (hbelow j hlt)
  · exact BitVec.eq_of_toNat_eq heq
  · cases hk.symm.trans (hleast k hgt)

theorem exec_ldKey_of_pressed (x : Nibble) {k : Nibble} {s : State} (hk : s.getKey k = true)
    (hbelow : ∀ i : Nibble, i.toNat < k.toNat → s.getKey i = false) :
    exec (.ldKey x) s = .next (s.setV x (k.zeroExtend 8)).advance := by
  rcases execLdKey_cases x s with ⟨j, hj, e⟩ | ⟨hnone, _⟩
  · cases eq_of_lowestPressed hj hk hbelow
    exact e
  · cases hk.symm.trans (hnone k)

theorem exec_ldKey_of_nonePressed (x : Nibble) {s : State} (hnone : ∀ k, s.getKey k = false) :
    exec (.ldKey x) s = .next s := by
  rcases execLdKey_cases x s with ⟨j, hj, _⟩ | ⟨_, e⟩
  · cases hj.symm.trans (lowestPressed_none hnone)
  · exact e

/-- Settles O33: the key index is stored zero-extended, so it is read back as it was. -/
theorem keyWaitTakesTheLowestKey : Obligations.KeyWaitTakesTheLowestKey := by
  refine ⟨fun jpV0 x => decodeOfEncode jpV0 (.ldKey x) rfl,
    fun x k s hk hbelow => ⟨_, exec_ldKey_of_pressed x hk hbelow, ?index, s.setV_fallsThrough x _⟩,
    fun x _ hnone => exec_ldKey_of_nonePressed x hnone⟩
  case index =>
    rw [State.getV_setV_advance]
    exact BitVec.toNat_setWidth_of_le (by decide)

end Sys2Proof.Machine
end

section
/-! PROOF. The timer moves: the value each one copies, and that nothing else changes (spec 45_timers R190 to R192). -/

namespace Sys2Proof.Machine

/-- Settles O34: V[X] is read back as the DT it was given; each timer holds the register copied, and the frame is that of a
completed LD DT or LD ST. -/
theorem timerMoves : Obligations.TimerMoves := by
  refine ⟨fun jpV0 x => ⟨decodeOfEncode jpV0 (.ldFromDt x) rfl, decodeOfEncode jpV0 (.ldDt x) rfl,
    decodeOfEncode jpV0 (.ldSt x) rfl⟩, fun x s => ⟨?fromDt, ?toDt, ?toSt⟩⟩
  case fromDt => exact ⟨_, rfl, s.getV_setV_advance x s.dt, s.setV_fallsThrough x s.dt⟩
  case toDt =>
    have completes : Completes s (.ldDt x) (s.setDt (s.getV x)).advance := .ldDt
    exact ⟨_, rfl, rfl, rfl, completes.frame⟩
  case toSt =>
    have completes : Completes s (.ldSt x) (s.setSt (s.getV x)).advance := .ldSt
    exact ⟨_, rfl, rfl, rfl, completes.frame⟩

end Sys2Proof.Machine
end

section
/-! PROOF. Index arithmetic, the BCD store and the bulk store and load of registers: the bytes each writes or reads from I,
that nothing else changes, and the fault out of bounds (spec 46_index_bcd_bulk R200 to R203). -/

namespace Sys2Proof.Machine

/-! ### ADD I (R200) -/

/-- Settles O35: the addition of words wraps at 2^16, and the frame is that of one written I. -/
theorem addToIndexWraps : Obligations.AddToIndexWraps := by
  refine ⟨fun jpV0 x => decodeOfEncode jpV0 (.addI x) rfl, fun x s => ⟨_, rfl, ?sum, rfl, s.setIdx_advance_frame _⟩⟩
  case sum =>
    change (s.idx + zextByte (s.getV x)).toNat = _
    rw [BitVec.toNat_add, toNat_zextByte]

/-! ### Storing bytes from I (R201, R202) -/

section
variable {s : State} {a : Nat} {bs : List Byte}

theorem State.byteAt_storeFrom_add (hm : s.memWf = true) (hfit : a + bs.length ≤ 0x1000) {k : Nat} (hk : k < bs.length) :
    (s.storeFrom a bs).byteAt (a + k) = bs[k] := by
  rw [State.byteAt_storeFrom hm hfit, dif_pos (by omega)]
  simp only [Nat.add_sub_cancel_left]

theorem State.byteAt_storeFrom_outside (hm : s.memWf = true) (hfit : a + bs.length ≤ 0x1000) {a' : Nat}
    (h : a' < a ∨ a + bs.length ≤ a') : (s.storeFrom a bs).byteAt a' = s.byteAt a' := by
  rw [State.byteAt_storeFrom hm hfit, dif_neg (by omega)]

/-- Bytes stored inside memory, by what is known of LD B, which stores any three. -/
theorem State.storeFrom_advance_frame (hfit : a + bs.length ≤ 0x1000) :
    Frame [.pc, .mem] s (s.storeFrom a bs).advance :=
  (Completes.store rfl (.inr hfit) : Completes s (.ldB 0) (s.storeFrom a bs).advance).frame

theorem storeAtIdx_of_le (hfit : s.idx.toNat + bs.length ≤ 0x1000) :
    storeAtIdx bs s = .next (s.storeFrom s.idx.toNat bs).advance := by
  rcases storeAtIdx_cases bs s with ⟨_, e⟩ | ⟨⟨_, hout⟩, _⟩
  · exact e
  · omega

/-- Out of bounds nothing is stored; the fault is at the lowest such address (60_exceptions R229). -/
theorem storeAtIdx_faults_of_lt (hne : bs ≠ []) (hout : 0x1000 < s.idx.toNat + bs.length) :
    ∃ t, storeAtIdx bs s = .next t ∧ Latched .memOob (BitVec.ofNat 16 (max s.idx.toNat 0x1000)) t ∧
      Frame [.latch] s t := by
  rcases storeAtIdx_cases bs s with ⟨hin, _⟩ | ⟨_, e⟩
  · have := hin.resolve_left hne
    omega
  · exact ⟨_, e, s.enterFault_latched _, s.enterFault_frame _⟩

end

/-- The stored digits as numbers: each fits a byte (R201). -/
theorem toNat_bcdDigits (b : Byte) : (bcdDigits b)[0].toNat = b.toNat / 100 ∧
    (bcdDigits b)[1].toNat = b.toNat / 10 % 10 ∧ (bcdDigits b)[2].toNat = b.toNat % 10 := by
  have small := b.isLt
  exact ⟨Nat.mod_eq_of_lt (by omega), Nat.mod_eq_of_lt (by omega), Nat.mod_eq_of_lt (by omega)⟩

/-- Settles O36: the three digits are the bytes stored from I. -/
theorem bcdStoresThreeDigits : Obligations.BcdStoresThreeDigits := by
  refine ⟨fun jpV0 x => decodeOfEncode jpV0 (.ldB x) rfl, fun x s => ⟨fun hm h => ?inBounds, fun h => ?outOfBounds⟩⟩
  case inBounds =>
    have hfit : s.idx.toNat + (bcdDigits (s.getV x)).length ≤ 0x1000 := by rw [length_bcdDigits]; omega
    have stored {k : Nat} (hk : k < 3) := congrArg BitVec.toNat (State.byteAt_storeFrom_add hm hfit hk)
    obtain ⟨hundreds, tens, ones⟩ := toNat_bcdDigits (s.getV x)
    exact ⟨_, storeAtIdx_of_le hfit, (stored (by decide)).trans hundreds, (stored (by decide)).trans tens,
      (stored (by decide)).trans ones,
      fun a ha => State.byteAt_storeFrom_outside hm hfit (by rw [length_bcdDigits]; omega), rfl,
      State.storeFrom_advance_frame hfit⟩
  case outOfBounds => exact storeAtIdx_faults_of_lt (List.cons_ne_nil _ _) (by rw [length_bcdDigits]; omega)

/-! ### Storing the registers (R202) -/

/-- The bulk store puts V[r] at I + r. -/
theorem byteAt_storeFrom_register {x r : Nibble} {s : State} (hm : s.memWf = true)
    (h : s.idx.toNat + x.toNat ≤ 0xFFF) (hr : r.toNat ≤ x.toNat) :
    (s.storeFrom s.idx.toNat (registerRange s x)).byteAt (s.idx.toNat + r.toNat) = s.getV r := by
  rw [byteAt_storeFrom_registerRange hm h hr, BitVec.ofNat_toNat, BitVec.setWidth_eq]

/-- Settles O37: X + 1 bytes are stored from I. -/
theorem bulkStoreWritesTheRange : Obligations.BulkStoreWritesTheRange := by
  refine ⟨fun jpV0 x => decodeOfEncode jpV0 (.storeRegs x) rfl,
    fun x s => ⟨fun hm h => ?inBounds, fun h => ?outOfBounds⟩⟩
  case inBounds =>
    have hfit : s.idx.toNat + (registerRange s x).length ≤ 0x1000 := by rw [length_registerRange]; omega
    exact ⟨_, execStoreRegs_of_le h, fun r hr => byteAt_storeFrom_register hm h hr,
      fun a ha => State.byteAt_storeFrom_outside hm hfit (by rw [length_registerRange]; omega), rfl,
      State.storeFrom_advance_frame hfit⟩
  case outOfBounds =>
    have hne : registerRange s x ≠ [] := List.ne_nil_of_length_pos (by rw [length_registerRange]; omega)
    exact storeAtIdx_faults_of_lt hne (by rw [length_registerRange]; omega)

/-! ### Loading the registers (R203) -/

/-- `s` after LD Vx, [I] in bounds. -/
def State.afterLoadRegs (s : State) (x : Nibble) : State :=
  (s.setVFrom 0 ((List.range (x.toNat + 1)).map fun k => s.byteAt (s.idx.toNat + k))).advance

theorem State.getV_afterLoadRegs (s : State) (x r : Nibble) :
    (s.afterLoadRegs x).getV r = if r.toNat ≤ x.toNat then s.byteAt (s.idx.toNat + r.toNat) else s.getV r := by
  rw [State.afterLoadRegs, State.getV_advance, State.getV_setVFrom]
  simp

theorem exec_loadRegs_of_le {x : Nibble} {s : State} (h : s.idx.toNat + x.toNat ≤ 0xFFF) :
    exec (.loadRegs x) s = .next (s.afterLoadRegs x) := by
  rcases execLoadRegs_cases x s with ⟨_, e⟩ | ⟨hout, _⟩
  · exact e
  · omega

/-- Out of bounds nothing is loaded; the fault is at the lowest such address (60_exceptions R229). -/
theorem exec_loadRegs_of_lt {x : Nibble} {s : State} (h : 0xFFF < s.idx.toNat + x.toNat) :
    exec (.loadRegs x) s = .next (s.enterFault (memOobAt (max s.idx.toNat 0x1000))) := by
  rcases execLoadRegs_cases x s with ⟨hin, _⟩ | ⟨_, e⟩
  · omega
  · exact e

/-- Settles O38. -/
theorem bulkLoadReadsTheRange : Obligations.BulkLoadReadsTheRange := by
  refine ⟨fun jpV0 x => decodeOfEncode jpV0 (.loadRegs x) rfl, fun x s => ⟨fun h => ?inBounds, fun h =>
    ⟨_, exec_loadRegs_of_lt h, s.enterFault_latched _, s.enterFault_frame _⟩⟩⟩
  case inBounds =>
    have completes : Completes s (.loadRegs x) (s.afterLoadRegs x) := .loadRegs (by simp)
    exact ⟨_, exec_loadRegs_of_le h, s.getV_afterLoadRegs x, congrArg (· + 2) (s.setVFrom_pc 0 _), completes.frame⟩

/-! ### A bulk load after a bulk store (R202, R203) -/

/-- Settles O39: the load reads V[r] of the store at I + r. -/
theorem bulkLoadUndoesBulkStore : Obligations.BulkLoadUndoesBulkStore := by
  intro x s t u hm h hstore hmem hidx
  cases hstore.symm.trans (execStoreRegs_of_le h)
  refine ⟨_, exec_loadRegs_of_le (hidx ▸ h), fun r hr => ?_⟩
  calc (u.afterLoadRegs x).getV r
      = u.byteAt (u.idx.toNat + r.toNat) := (u.getV_afterLoadRegs x r).trans (if_pos hr)
    _ = u.byteAt (s.idx.toNat + r.toNat) := by rw [hidx]
    _ = (s.storeFrom s.idx.toNat (registerRange s x)).byteAt (s.idx.toNat + r.toNat) := hmem _
    _ = s.getV r := byteAt_storeFrom_register hm h hr

end Sys2Proof.Machine
end

section
/-! PROOF. Faults: when a STEP raises one, what it leaves, how long it stays latched, and what the commands do meanwhile
(spec 60_exceptions R221 to R232). -/

namespace Sys2Proof.Machine

/-! ### A next state, always (R226) -/

/-- Settles O8: the next state whose parameters are kept is a next state. -/
theorem everyStepAnswersANextState : Obligations.EveryStepAnswersANextState := by
  refine ⟨fun i s => ?_, fun s => ?_⟩
  · obtain ⟨t, e, _⟩ := exec_nextHasParams i s
    exact ⟨t, e⟩
  · obtain ⟨t, e, _⟩ := step_nextHasParams s
    exact ⟨t, e⟩

/-! ### The fault of the table (R221, R229) -/

/-- The fetch's fault, at pc or at pc + 1, as Fetch16 raises it. -/
theorem stepFault_of_lt {s : State} (h : 0xFFE < s.pc.toNat) :
    stepFault s = some (memOobAt (max s.pc.toNat 0x1000)) := by
  by_cases hfirst : 0xFFF < s.pc.toNat
  · have hinfo : BitVec.ofNat 16 (max s.pc.toNat 0x1000) = s.pc := by
      rw [Nat.max_eq_left (by omega), BitVec.ofNat_toNat, BitVec.setWidth_eq]
    rw [stepFault, if_pos hfirst, memOobAt, hinfo]
  · have hpc : s.pc = 0xFFF := BitVec.eq_of_toNat_eq (show s.pc.toNat = 0xFFF by omega)
    rw [stepFault, if_neg hfirst, if_pos (by omega), hpc]
    rfl

theorem stepFault_of_illegal {s : State} {er : DecodeError} (hpc : s.pc.toNat ≤ 0xFFE)
    (hd : decodeWord s.params.jpV0Implemented (fetchedWord s) = .error er) :
    stepFault s = some { cause := .illegalOpcode, info := fetchedWord s } := by
  rw [stepFault, if_neg (by omega), if_neg (by omega), hd]

theorem stepFault_of_decodes {s : State} {i : Instr} (hpc : s.pc.toNat ≤ 0xFFE)
    (hd : decodeWord s.params.jpV0Implemented (fetchedWord s) = .ok i) : stepFault s = instrFault i s := by
  rw [stepFault, if_neg (by omega), if_neg (by omega), hd]

/-- A STEP in RUNNING raises its fault of the table, or the instruction it decoded completes. -/
theorem stepCommand_running_cases {s : State} (hs : s.status = .running) :
    (∃ trap, stepFault s = some trap ∧ stepCommand s = .next (s.enterFault trap)) ∨
    (stepFault s = none ∧ ∃ i t, stepCommand s = .next t ∧ Completes s i t) := by
  rcases stepCommand_cases s with ⟨hf, _⟩ | ⟨_, hpc, e⟩ | ⟨_, hpc, _, ⟨er, hd, e⟩ | ⟨i, hd, e⟩⟩
  · cases hs.symm.trans hf
  · exact .inl ⟨_, stepFault_of_lt hpc, e⟩
  · exact .inl ⟨_, stepFault_of_illegal hpc hd, e⟩
  · rw [stepFault_of_decodes hpc hd, e]
    rcases exec_faultsOrCompletes i s with h | ⟨hnone, t, ht, hc⟩
    · exact .inl h
    · exact .inr ⟨hnone, i, t, ht, hc⟩

theorem instrFault_cause_ne_none {i : Instr} {s : State} {trap : Trap} (h : instrFault i s = some trap) :
    trap.cause ≠ .none := by
  intro hnone
  have hlatch := latchConsistent_of_instrFault h
  simp [LatchConsistent, hnone] at hlatch

/-- Every fault of a STEP has one of the five causes. -/
theorem stepFault_cause_ne_none {s : State} {trap : Trap} (h : stepFault s = some trap) : trap.cause ≠ .none := by
  by_cases hpc : s.pc.toNat ≤ 0xFFE
  · cases hd : decodeWord s.params.jpV0Implemented (fetchedWord s) with
    | error er =>
      cases h.symm.trans (stepFault_of_illegal hpc hd)
      exact nofun
    | ok i => exact instrFault_cause_ne_none ((stepFault_of_decodes hpc hd).symm.trans h)
  · cases h.symm.trans (stepFault_of_lt (by omega))
    exact nofun

/-! ### What keeps the latch (R226, R231, R232) -/

/-- Status, cause and info are the same. -/
def SameLatch (s t : State) : Prop := t.status = s.status ∧ t.cause = s.cause ∧ t.info = s.info

/-- No instruction has the latch among its parts; only a fault writes it. -/
theorem latch_not_mem_writtenParts (i : Instr) : .latch ∉ i.writtenParts := by
  cases i <;> simp [Instr.writtenParts]

theorem Completes.sameLatch {i : Instr} {s t : State} (h : Completes s i t) : SameLatch s t := by
  obtain ⟨_, _, _, _, _, _, _, _, _, hlatch, _⟩ := h.frame
  exact hlatch (latch_not_mem_writtenParts i)

/-- LOAD keeps the latch, whether the image fits or not (70_reset_and_hazards R263). -/
theorem State.load_sameLatch (s : State) (image : List Byte) : SameLatch s (s.load image) := by
  unfold State.load
  split <;> exact ⟨rfl, rfl, rfl⟩

theorem runCommand_sameLatch {c : Command} {s t : State} (hstep : c ≠ .step) (hreset : c ≠ .reset)
    (h : runCommand c s = .next t) : SameLatch s t := by
  cases c with
  | step => exact absurd rfl hstep
  | reset => exact absurd rfl hreset
  | load image => cases h; exact s.load_sameLatch image
  | tick | setKey k pressed | readout => cases h; exact ⟨rfl, rfl, rfl⟩

theorem runCommand_reset_clears {s t : State} (h : runCommand .reset s = .next t) :
    t.status = .running ∧ t.cause = .none ∧ t.info = 0 := by
  cases h
  exact ⟨rfl, rfl, rfl⟩

theorem runCommand_keeps_running {c : Command} {s t : State} (hstep : c ≠ .step) (hs : s.status = .running)
    (h : runCommand c s = .next t) : t.status = .running := by
  by_cases hreset : c = .reset
  · subst hreset
    exact (runCommand_reset_clears h).1
  · exact (runCommand_sameLatch hstep hreset h).1.trans hs

/-- Settles O46, a STEP that faults and one that completes apart. -/
theorem faultsAreExactlyTheTable : Obligations.FaultsAreExactlyTheTable := by
  refine ⟨rfl, fun s hs => ⟨step_of_pending_nil, fun trap hf => ?faults, fun hnone => ?completes⟩,
    fun _ _ _ => runCommand_keeps_running⟩
  case faults =>
    rcases stepCommand_running_cases hs with ⟨trap', hf', e⟩ | ⟨hnone, _⟩
    · cases hf.symm.trans hf'
      exact ⟨_, e, s.enterFault_latched trap, s.enterFault_frame trap⟩
    · cases hf.symm.trans hnone
  case completes =>
    rcases stepCommand_running_cases hs with ⟨_, hf, _⟩ | ⟨_, i, t, e, hc⟩
    · cases hnone.symm.trans hf
    · obtain ⟨hstatus, hlatch⟩ := hc.sameLatch
      exact ⟨t, e, hstatus.trans hs, hlatch⟩

/-- Settles O47: a STEP that leads to FAULTED has not completed, so it entered its fault from the state before it. -/
theorem faultsArePrecise : Obligations.FaultsArePrecise := by
  intro s t hs h ht
  rcases stepCommand_running_cases hs with ⟨trap, hf, e⟩ | ⟨_, i, u, e, hc⟩
  · cases h.symm.trans e
    exact ⟨rfl, stepFault_cause_ne_none hf⟩
  · cases h.symm.trans e
    cases ht.symm.trans (hc.status.trans hs)

/-! ### The commands in FAULTED (R231, R232) -/

theorem stepCommand_of_faulted {s : State} (hs : s.status = .faulted) : stepCommand s = .next s := by
  rcases stepCommand_cases s with ⟨_, e⟩ | ⟨hr, _⟩ | ⟨hr, _⟩
  · exact e
  · cases hs.symm.trans hr
  · cases hs.symm.trans hr

/-- In FAULTED no command but RESET writes the latch, STEP included. -/
theorem runCommand_sameLatch_of_faulted {c : Command} {s t : State} (hs : s.status = .faulted) (hreset : c ≠ .reset)
    (h : runCommand c s = .next t) : SameLatch s t := by
  by_cases hstep : c = .step
  · subst hstep
    cases h.symm.trans (stepCommand_of_faulted hs)
    exact ⟨rfl, rfl, rfl⟩
  · exact runCommand_sameLatch hstep hreset h

/-- Settles O48: the command carried out is STEP or the oldest pending one. -/
theorem faultIsKeptUntilReset : Obligations.FaultIsKeptUntilReset := by
  intro s t hs h
  refine ⟨fun hnot => ?kept, fun rest hp => ?cleared⟩
  case kept =>
    suffices latch : SameLatch s t from ⟨latch.1.trans hs, latch.2⟩
    cases hp : s.outside.pending with
    | nil => exact runCommand_sameLatch_of_faulted (c := .step) hs nofun ((step_of_pending_nil hp).symm.trans h)
    | cons c rest =>
      have hreset : c ≠ .reset := fun e => hnot rest (e ▸ hp)
      exact runCommand_sameLatch_of_faulted (s := s.setPending rest) hs hreset ((step_of_pending_cons hp).symm.trans h)
  case cleared => exact runCommand_reset_clears ((step_of_pending_cons hp).symm.trans h)

theorem State.load_enterFault (s : State) (trap : Trap) (image : List Byte) :
    (s.enterFault trap).load image = (s.load image).enterFault trap := by
  unfold State.load
  split <;> rfl

/-- A command but STEP and RESET does not look at the latch: a fault latched before it is one latched after it. -/
theorem runCommand_enterFault {c : Command} {s t : State} (trap : Trap) (hstep : c ≠ .step) (hreset : c ≠ .reset)
    (h : runCommand c s = .next t) : runCommand c (s.enterFault trap) = .next (t.enterFault trap) := by
  cases c with
  | step => exact absurd rfl hstep
  | reset => exact absurd rfl hreset
  | load image => cases h; exact congrArg _ (s.load_enterFault trap image)
  | tick | setKey k pressed | readout => cases h; rfl

/-- Settles O49. -/
theorem commandsInFaulted : Obligations.CommandsInFaulted :=
  ⟨fun _ => stepCommand_of_faulted, fun _ _ _ trap => runCommand_enterFault trap,
    fun _ _ => ⟨_, rfl, runCommand_reset_clears rfl⟩⟩

end Sys2Proof.Machine
end

section
/-! PROOF. The host's commands TICK, SET_KEY, RESET and LOAD: what each writes, and that nothing else changes (spec
60_exceptions R241, R243, 70_reset_and_hazards R260, R263). -/

namespace Sys2Proof.Machine

/-! ### TICK (R241) -/

/-- The guarded decrement is the subtraction of natural numbers, which stops at 0. -/
theorem toNat_countDown (b : Byte) : (countDown b).toNat = b.toNat - 1 := by
  unfold countDown
  split <;> bv_omega

theorem State.tick_frame (s : State) : Frame [.dt, .st, .outside] s s.tick := by
  simp [Frame]

/-- Settles O52. -/
theorem tickCountsDownAndAnswers : Obligations.TickCountsDownAndAnswers := fun s =>
  ⟨_, rfl, toNat_countDown s.dt, toNat_countDown s.st, rfl, s.tick_frame⟩

/-- The timers after `k` TICKs. -/
theorem toNat_timers_afterTicks (k : Nat) (s : State) :
    (afterTicks k s).st.toNat = s.st.toNat - k ∧ (afterTicks k s).dt.toNat = s.dt.toNat - k := by
  induction k with
  | zero => exact ⟨rfl, rfl⟩
  | succ k ih =>
    obtain ⟨hst, hdt⟩ := ih
    simp only [afterTicks, State.tick_st, State.tick_dt, toNat_countDown, hst, hdt, Nat.sub_sub, and_self]

/-- Settles O53: the TICK after the first k reads the ST they have left. -/
theorem toneForExactlyNTicks : Obligations.ToneForExactlyNTicks := by
  intro s k
  obtain ⟨hst, hdt⟩ := toNat_timers_afterTicks k s
  refine ⟨hst, hdt, ?_⟩
  calc (afterTicks (k + 1) s).outside.reply = .tone (decide ((afterTicks k s).st.toNat > 0)) := rfl
    _ = .tone (decide (k < s.st.toNat)) := congrArg Reply.tone (decide_eq_decide.mpr (by omega))

/-! ### SET_KEY (R243) -/

theorem State.setKeyState_frame (s : State) (k : Nibble) (pressed : Bool) :
    Frame [.keys] s (s.setKeyState k pressed) := by
  simp [Frame]

/-- Settles O54. -/
theorem setKeyOverwritesOneKey : Obligations.SetKeyOverwritesOneKey := fun k pressed s =>
  ⟨_, rfl, (s.getKey_setKeyState k pressed k).trans (if_pos rfl),
    fun j hj => (s.getKey_setKeyState k pressed j).trans (if_neg hj), s.setKeyState_frame k pressed⟩

/-! ### RESET (R260) -/

/-- Settles O51: RESET differs from the reset state in the host's record alone, which the table does not list. -/
theorem resetRestoresEverything : Obligations.ResetRestoresEverything := fun s =>
  ⟨s.resetCommand, rfl, atReset_resetWith s.params⟩

/-! ### LOAD (R263) -/

theorem runCommand_load_of_le (s : State) {image : List Byte} (h : image.length ≤ 3584) :
    runCommand (.load image) s = .next ((s.storeFrom 0x200 image).answer .loaded) :=
  congrArg Host.Outcome.next (if_pos h)

theorem runCommand_load_of_lt (s : State) {image : List Byte} (h : 3584 < image.length) :
    runCommand (.load image) s = .next (s.answer .loadRefused) :=
  congrArg Host.Outcome.next (if_neg (Nat.not_le_of_lt h))

theorem State.storeFrom_answer_frame (s : State) (a : Nat) (bs : List Byte) (r : Reply) :
    Frame [.mem, .outside] s ((s.storeFrom a bs).answer r) := by
  simp [Frame]

/-- Settles O55: an image that fits ends inside memory, so its bytes are read back. -/
theorem loadWritesTheImage : Obligations.LoadWritesTheImage := by
  refine fun image s => ⟨fun hm h => ?fits, fun h => ?refused⟩
  case fits =>
    have hfit : 0x200 + image.length ≤ 0x1000 := by omega
    exact ⟨_, runCommand_load_of_le s h, fun k hk => State.byteAt_storeFrom_add hm hfit hk,
      fun a ha => State.byteAt_storeFrom_outside hm hfit ha, rfl, s.storeFrom_answer_frame _ _ _⟩
  case refused => exact ⟨_, runCommand_load_of_lt s h, rfl, s.answer_frame _⟩

end Sys2Proof.Machine
end

section
/-! PROOF. Running off the end of memory: NOPs up to 0x1000, then the fetch's fault (spec 70_reset_and_hazards R272). -/

namespace Sys2Proof.Machine

theorem runSteps_succ_of_step {s t : State} (h : step s = .next t) (k : Nat) : runSteps (k + 1) s = runSteps k t := by
  rw [runSteps, h]

/-- A STEP in RUNNING whose fetch leaves memory latches MEM_OOB (20_memory R68, 60_exceptions R222). -/
theorem stepCommand_of_lt {s : State} (hs : s.status = .running) (hpc : 0xFFE < s.pc.toNat) :
    stepCommand s = .next (s.enterFault (memOobAt (max s.pc.toNat 0x1000))) := by
  rcases stepCommand_cases s with ⟨hf, _⟩ | ⟨_, _, e⟩ | ⟨_, hin, _⟩
  · cases hs.symm.trans hf
  · exact e
  · omega

/-- Two zero bytes at pc are NOP (30_encoding R98). -/
theorem step_of_zero_bytes {s : State} (hs : s.status = .running) (hp : s.outside.pending = [])
    (hpc : s.pc.toNat ≤ 0xFFE) (h0 : s.byteAt s.pc.toNat = 0) (h1 : s.byteAt (s.pc.toNat + 1) = 0) :
    step s = .next s.advance := by
  have hword : fetchedWord s = 0 := by rw [fetchedWord, h0, h1]; rfl
  calc step s = stepCommand s := step_of_pending_nil hp
    _ = exec .nop s := stepCommand_of_decodes hs hpc (by rw [hword]; exact decodeWord_zero _)

/-- Over zero bytes alone the pc runs to the end of memory, and the steps left over go on from there. -/
theorem runSteps_of_zero_bytes (n k : Nat) {s : State} (hs : s.status = .running) (hp : s.outside.pending = [])
    (hend : s.pc.toNat + 2 * n = 0x1000) (hzero : ∀ a, s.pc.toNat ≤ a → a < 0x1000 → s.byteAt a = 0) :
    runSteps (n + k) s = runSteps k (s.setPc 0x1000) := by
  induction n generalizing s with
  | zero =>
    have hpc : s.pc = 0x1000 := BitVec.eq_of_toNat_eq hend
    rw [← hpc, Nat.zero_add]
    rfl
  | succ n ih =>
    have hpc : s.advance.pc.toNat = s.pc.toNat + 2 := toNat_advanced_pc (by omega)
    have hstep : step s = .next s.advance :=
      step_of_zero_bytes hs hp (by omega) (hzero _ (by omega) (by omega)) (hzero _ (by omega) (by omega))
    calc runSteps (n + 1 + k) s = runSteps (n + k + 1) s := by rw [Nat.add_right_comm]
      _ = runSteps (n + k) s.advance := runSteps_succ_of_step hstep _
      _ = runSteps k (s.setPc 0x1000) := ih (s := s.advance) hs hp (by omega) fun a ha => hzero a (by omega)

/-- Settles O57: no step left over once the pc is at 0x1000, and one. -/
theorem runningOffTheEndFaults : Obligations.RunningOffTheEndFaults := by
  intro n s hs hp hend hzero
  have hout : 0xFFE < (s.setPc 0x1000).pc.toNat := show 0xFFE < (0x1000 : Word).toNat by decide
  have hfault : step (s.setPc 0x1000) = .next ((s.setPc 0x1000).enterFault (memOobAt 0x1000)) :=
    calc step (s.setPc 0x1000) = stepCommand (s.setPc 0x1000) := step_of_pending_nil hp
      _ = .next ((s.setPc 0x1000).enterFault (memOobAt 0x1000)) := stepCommand_of_lt hs hout
  exact ⟨runSteps_of_zero_bytes n 0 hs hp hend hzero,
    (runSteps_of_zero_bytes n 1 hs hp hend hzero).trans (runSteps_succ_of_step hfault 0)⟩

end Sys2Proof.Machine
end
